-- ==== Sys2Proof/Word.lean ====
section
/-! DEFINITION. The word and byte types (00_scope.md R11): every register, RAM word and bus datum is 32 bits wide,
bit 0 is the least significant bit. -/

namespace Sys2Proof

/-- A register, RAM word or bus datum (R11). -/
abbrev Word := BitVec 32

/-- A colour channel, an opcode, a byte of XBUF or of memory. -/
abbrev Byte := BitVec 8

end Sys2Proof
end

