-- ==== Sys2Proof/Config.lean ====
section
/-! DEFINITION. What a build fixes (the parameters of 00_scope.md R7, with the spec's defaults) and the free values the
spec leaves open (93_implementation_defined.md U1, U3, U4, U6 and the interleaving of 20_memory.md R81). -/

namespace Sys2Proof

/-- The parameters R7 gives once per protocol: bit period, high times, SPI bit period (ticks) and padding (bytes). -/
structure Timing where
  tbit   : Nat
  t0h    : Nat
  t1h    : Nat
  subbit : Nat
  padb   : Nat
  deriving DecidableEq, Repr

/-- The parameters of R7. "The model takes the following parameters as arguments": State carries them, no step changes
them. `supXY` is SUPPORTED(X, Y). -/
structure Params where
  pixelCap    : Nat
  palCap      : Nat
  spiBufBytes : Nat
  hasGpio     : Bool
  hasSpi      : Bool
  supGpioP24  : Bool
  supGpioP32  : Bool
  supSpiP24   : Bool
  supSpiP32   : Bool
  clkHz       : Nat
  p24         : Timing
  p32         : Timing
  resetTicks  : Nat
  deriving DecidableEq, Repr

/-- The default timing of R7, the same for both protocols. -/
def Timing.default : Timing :=
  { tbit := 30, t0h := 10, t1h := 20, subbit := 10, padb := 90 }

/-- The defaults of R7, "used by every test vector". -/
def Params.default : Params :=
  { pixelCap := 1024, palCap := 256, spiBufBytes := 8192, hasGpio := true, hasSpi := true,
    supGpioP24 := true, supGpioP32 := true, supSpiP24 := true, supSpiP32 := true,
    clkHz := 24000000, p24 := Timing.default, p32 := Timing.default, resetTicks := 7200 }

/-- The `n`-th draw: a free value (log entry 3). It answers PRAND (42_palette.md R196), the idle length of
43_encoder.md R217 and the lengths of 70_reset_and_hazards.md R324. -/
opaque Config.draw : Nat → Nat

/-- How many host steps pass before the encoder's `n`-th step of a free interleaving: a free value, and a finite one, which is the
weak fairness of 20_memory.md R81 (43_encoder.md R240, 70_reset_and_hazards.md R339, log entry 5). -/
opaque Config.patience : Nat → Nat

/-- Where in the bit of segment number `n` of the wire trace SPI_SCK rises: a free value (43_encoder.md R251 puts the rising edge
inside the bit and says no more, log entry 8). -/
opaque Config.sckRise : Nat → Nat

/-- The byte that the RAM byte at offset `off` holds after reset number `epoch`, until it is written: a free value
(70_reset_and_hazards.md R323, log entry 2). -/
opaque Config.ramDraw : Nat → Nat → Byte

end Sys2Proof
end

