-- ==== Sys2Proof/Syntax.lean ====
section
/-! DEFINITION. The command set (30_encoding.md R102, one constructor per row of the opcode table), the register names of
the address map (20_memory.md R71), a host access (R72) and the host-program notation (30_encoding.md R119, R120). -/

namespace Sys2Proof

/-- The 22 commands of R102. A command carries no operand: operands travel in ARG0 to ARG2 (R100). -/
inductive Instr where
  | nop
  | cpk24
  | hsvd
  | hsvf
  | hsld
  | hslf
  | tohsv
  | lerp
  | rlerp
  | scale
  | sat
  | ceq
  | psetn
  | pgeti
  | pgetf
  | prand
  | cfg
  /-- SHOW (`show` is a word of Lean's own). -/
  | showFrame
  | fill
  | pfill
  | pixr
  | enc3
  deriving DecidableEq, Repr

/-- The named registers of the address map (R71). -/
inductive Reg where
  | id
  | status
  | err
  | cmd
  | arg0
  | arg1
  | arg2
  | res
  | config
  | npix
  | paln
  | irqStat
  | irqEn
  | frames
  | capPix
  | capMisc
  | capXbuf
  deriving DecidableEq, Repr

/-- What a legal offset of the aperture names (R71): a register, a palette word or a pixel word. -/
inductive Target where
  | reg (r : Reg)
  | pal (i : Nat)
  | pix (i : Nat)
  deriving DecidableEq, Repr

/-- The direction of a host access (R72). -/
inductive Dir where
  | read
  | write
  deriving DecidableEq, Repr

/-- A host access `(dir, off, size, wdata)` (R72); `size` is in bytes. A read does not use `wdata`. -/
structure Access where
  dir   : Dir
  off   : Nat
  size  : Nat
  wdata : Word
  deriving DecidableEq, Repr

/-- What the host does next: one access, or the loop of WAITIDLE, which repeats `RD STATUS` until it reads BUSY = 0
(30_encoding.md R120). -/
inductive HostOp where
  | access (a : Access)
  | waitIdle
  deriving DecidableEq, Repr

/-- Who takes the next step (00_scope.md R9, 70_reset_and_hazards.md R320). -/
inductive Turn where
  | host
  | encoder
  /-- An assertion of RST_N (R320). -/
  | reset
  deriving DecidableEq, Repr

/-- The target of a line of the host-program notation (R119). -/
inductive HostTarget where
  | named (t : Target)
  /-- A hexadecimal offset. -/
  | offset (off : Nat)
  deriving DecidableEq, Repr

/-- A line of a host program: the bus operations of R119 and the pseudo-instructions of R120. A value is an integer,
taken modulo 2^32 (R119). -/
inductive HostLine where
  | wr (t : HostTarget) (v : Int)
  | rd (t : HostTarget)
  | cmd (i : Instr)
  /-- `<MNEMONIC> a0, a1, a2`; an operand `_` (`none`) is not written. -/
  | op (i : Instr) (args : List (Option Int))
  | setPix (i : Nat) (c : Int)
  | setPal (i : Nat) (c : Int)
  | loadPal (cs : List Int)
  | clrErr
  | ackDone
  | waitIdle
  deriving DecidableEq, Repr

end Sys2Proof
end

