-- ==== Sys2Proof/WellFormed.lean ====
section
/-! DEFINITION. Well-formedness: the constraints on a build (00_scope.md R7, R8), a legal access (20_memory.md R73), the
reserved opcodes (30_encoding.md R103), and a line of a host program (R119, R120). A command carries no operand, so
every term of `Instr` is well formed. -/

namespace Sys2Proof

/-- R8, first line: `0 < T0H < T1H < TBIT`. -/
def Timing.highTimesOk (t : Timing) : Bool :=
  decide (0 < t.t0h) && decide (t.t0h < t.t1h) && decide (t.t1h < t.tbit)

/-- R7: SUBBIT is at least 1. -/
def Timing.subbitOk (t : Timing) : Bool := decide (1 ≤ t.subbit)

/-- R8, second line: the padding spans the reset gap, `PADB * 8 * SUBBIT >= RESET_TICKS`. -/
def Timing.paddingOk (t : Timing) (resetTicks : Nat) : Bool := decide (resetTicks ≤ t.padb * 8 * t.subbit)

/-- The constraints of R7 and R8 on one protocol's timing. -/
def Timing.legal (t : Timing) (resetTicks : Nat) : Bool := t.highTimesOk && t.subbitOk && t.paddingOk resetTicks

/-- R7: PIXEL_CAP in 1 .. 2^20. -/
def Params.pixelCapOk (p : Params) : Bool := decide (1 ≤ p.pixelCap) && decide (p.pixelCap ≤ 1048576)

/-- R7: PAL_CAP in 1 .. 256. -/
def Params.palCapOk (p : Params) : Bool := decide (1 ≤ p.palCap) && decide (p.palCap ≤ 256)

/-- R7: CLK_HZ is positive. -/
def Params.clkOk (p : Params) : Bool := decide (0 < p.clkHz)

/-- R7: RESET_TICKS is at least 1. -/
def Params.resetTicksOk (p : Params) : Bool := decide (1 ≤ p.resetTicks)

/-- A build the spec admits (R7, R8). "The model takes them as hypotheses." -/
def Params.legal (p : Params) : Bool :=
  p.pixelCapOk && p.palCapOk && p.clkOk && p.resetTicksOk && p.p24.legal p.resetTicks && p.p32.legal p.resetTicks

/-- A legal access has size 4 and an offset that is a multiple of 4 (R73). -/
def Access.aligned (a : Access) : Bool := decide (a.size = 4) && decide (a.off % 4 = 0)

/-- The reserved opcodes, as R103 lists them. -/
def reservedOpcode (opc : Byte) : Bool :=
  (decide (0x01 ≤ opc.toNat) && decide (opc.toNat ≤ 0x0F)) || (decide (0x1B ≤ opc.toNat) && decide (opc.toNat ≤ 0x1F)) ||
  (decide (0x24 ≤ opc.toNat) && decide (opc.toNat ≤ 0x2F)) || (decide (0x36 ≤ opc.toNat) && decide (opc.toNat ≤ 0x3F)) ||
  decide (0x40 ≤ opc.toNat)

/-- A line of a host program (R119, R120): at most three operands, and a palette of 1 to PAL_CAP words to load. -/
def HostLine.wf (p : Params) : HostLine → Bool
  | .op _ args => decide (args.length ≤ 3)
  | .setPix i _ => decide (i < p.pixelCap)
  | .setPal i _ => decide (i < p.palCap)
  | .loadPal cs => decide (1 ≤ cs.length) && decide (cs.length ≤ p.palCap)
  | .wr .. | .rd .. | .cmd .. | .clrErr | .ackDone | .waitIdle => true

end Sys2Proof
end

