-- ==== Sys2Proof/Decode.lean ====
section
/-! DEFINITION. Decoding and encoding of command words (30_encoding.md R100 to R105). A command word is one 32-bit CMD32
word, `{IGN[31:8], UNIT[7:4], FUNC[3:0]}`; decoding looks OPC = CMD[7:0] up in the opcode map of R102. -/

namespace Sys2Proof

/-- Why a command word is rejected: its opcode is reserved (R103). -/
inductive DecodeError where
  | reservedOpcode (opc : Byte)
  deriving DecidableEq, Repr

/-- OPC = CMD[7:0] (R100). -/
def opcodeField (w : Word) : Byte := w.extractLsb' 0 8

/-- UNIT = CMD[7:4] (R100). -/
def unitField (w : Word) : BitVec 4 := w.extractLsb' 4 4

/-- FUNC = CMD[3:0] (R100). -/
def funcField (w : Word) : BitVec 4 := w.extractLsb' 0 4

/-- IGN = CMD[31:8], ignored by decoding (R105). -/
def ignoredField (w : Word) : BitVec 24 := w.extractLsb' 8 24

/-- The opcode map (R102). -/
def opcodeTable : List (Byte × Instr) :=
  [(0x00#8, .nop),
   (0x10#8, .cpk24), (0x11#8, .hsvd), (0x12#8, .hsvf), (0x13#8, .hsld), (0x14#8, .hslf), (0x15#8, .tohsv),
   (0x16#8, .lerp), (0x17#8, .rlerp), (0x18#8, .scale), (0x19#8, .sat), (0x1A#8, .ceq),
   (0x20#8, .psetn), (0x21#8, .pgeti), (0x22#8, .pgetf), (0x23#8, .prand),
   (0x30#8, .cfg), (0x31#8, .showFrame), (0x32#8, .fill), (0x33#8, .pfill), (0x34#8, .pixr), (0x35#8, .enc3)]

/-- Decoding (R101): a lookup of OPC in the table; CMD[31:8] plays no part (R105); every other opcode is rejected by
name (R103). -/
def decode (w : Word) : Except DecodeError Instr :=
  match opcodeTable.lookup (opcodeField w) with
  | some i => .ok i
  | none => .error (.reservedOpcode (opcodeField w))

/-- The opcode of a command, as its own rule gives it (R136 to R222). -/
def opcode : Instr → Byte
  | .nop => 0x00#8
  | .cpk24 => 0x10#8
  | .hsvd => 0x11#8
  | .hsvf => 0x12#8
  | .hsld => 0x13#8
  | .hslf => 0x14#8
  | .tohsv => 0x15#8
  | .lerp => 0x16#8
  | .rlerp => 0x17#8
  | .scale => 0x18#8
  | .sat => 0x19#8
  | .ceq => 0x1A#8
  | .psetn => 0x20#8
  | .pgeti => 0x21#8
  | .pgetf => 0x22#8
  | .prand => 0x23#8
  | .cfg => 0x30#8
  | .showFrame => 0x31#8
  | .fill => 0x32#8
  | .pfill => 0x33#8
  | .pixr => 0x34#8
  | .enc3 => 0x35#8

/-- The command word of a command with the ignored bits CMD[31:8] at `ign` (R100, R105). -/
def encodeWith (ign : BitVec 24) (i : Instr) : Word := ign ++ opcode i

/-- The command word the host notation writes for a mnemonic: `zext_32(OPC)` (R119). -/
def encode (i : Instr) : Word := encodeWith 0#24 i

/-- The instruction the decoder reads from the table's bits: one word, the bits above `nbits` zero. -/
def decodeTableWord (nbits w : Nat) : Option Instr :=
  match decode (BitVec.ofNat 32 (w % 2 ^ nbits)) with
  | .ok i => some i
  | .error _ => none

end Sys2Proof
end

