-- ==== Sys2Proof/Machine/Operands.lean ====
section
/-! DEFINITION. Every operand and result format of 30_encoding.md (R106 to R116): colour words, fractions, hues, channels,
indexes, the configuration word and the channel order descriptor. -/

namespace Sys2Proof.Machine

/-! ### Colour words (00_scope.md R14, 30_encoding.md R106) -/

/-- W(c) = c[31:24] (R14). -/
def laneW (c : Word) : Byte := c.extractLsb' 24 8

/-- R(c) = c[23:16] (R14). -/
def laneR (c : Word) : Byte := c.extractLsb' 16 8

/-- G(c) = c[15:8] (R14). -/
def laneG (c : Word) : Byte := c.extractLsb' 8 8

/-- B(c) = c[7:0] (R14). -/
def laneB (c : Word) : Byte := c.extractLsb' 0 8

/-- `rgbw(w, r, g, b) = {w, r, g, b}` (R14). -/
def rgbw (w r g b : Byte) : Word := w ++ r ++ g ++ b

/-- "lane-wise f" on one colour word (R14). -/
def mapLanes (f : Byte → Byte) (c : Word) : Word :=
  rgbw (f (laneW c)) (f (laneR c)) (f (laneG c)) (f (laneB c))

/-- "lane-wise f" on two colour words (R14). -/
def zipLanes (f : Byte → Byte → Byte) (a b : Word) : Word :=
  rgbw (f (laneW a) (laneW b)) (f (laneR a) (laneR b)) (f (laneG a) (laneG b)) (f (laneB a) (laneB b))

/-! ### Numbers -/

/-- The 8-bit operands read from bits 7:0 of a register (R110). -/
def low8 (w : Word) : Byte := w.extractLsb' 0 8

/-- The 16-bit operands read from bits 15:0 of a register (R107 to R109). -/
def low16 (w : Word) : BitVec 16 := w.extractLsb' 0 16

/-- F16 (R107, 41_color.md R153): `k(v16) = clamp(sint(v16), 0, 256)`. -/
def fractionK (v : BitVec 16) : Nat := (min (max v.toInt 0) 256).toNat

/-- HD16 (R108, 41_color.md R143): `hueD(v16) = sint(v16) mod 360`, in [0,359]. -/
def hueDegrees (v : BitVec 16) : Int := v.toInt % 360

/-- HF16 (R109, 41_color.md R144): `hueF(v16) = (v16 * 360) >> 16`, in [0,359]. -/
def hueFraction (v : BitVec 16) : Int := (v.toNat * 360 : Nat) / 65536

/-- A U8 operand as an integer (R110). -/
def channel (w : Word) : Int := ((low8 w).toNat : Int)

/-- A signed 32-bit index (R111). -/
def signedIndex (w : Word) : Int := w.toInt

/-- The integer part of a Q24.8 index: `sint(ARG0) div 256`, the floor (R111, 42_palette.md R194). -/
def indexInt (w : Word) : Int := w.toInt / 256

/-- The fraction of a Q24.8 index: `ARG0[7:0]` (R111, 42_palette.md R194). -/
def indexFrac (w : Word) : Nat := (low8 w).toNat

/-- `wrap(i, n) = i mod n`, the Euclidean remainder (42_palette.md R192, 00_scope.md R12). -/
def wrapIndex (i : Int) (n : Nat) : Nat := (i % (n : Int)).toNat

/-! ### The configuration word (30_encoding.md R112, 10_state.md R27) -/

/-- PROTO = CFGW[1:0]: 0 = P24, 1 = P32. -/
def cfgProto (w : Word) : BitVec 2 := w.extractLsb' 0 2

/-- STRAT = CFGW[3:2]: 0 = GPIO, 1 = SPI. -/
def cfgStrat (w : Word) : BitVec 2 := w.extractLsb' 2 2

/-- ASYNC = CFGW[4]. -/
def cfgAsync (w : Word) : Bool := w.getLsbD 4

/-- ORDER = CFGW[15:8]. -/
def cfgOrder (w : Word) : Byte := w.extractLsb' 8 8

/-- STRAT = GPIO. -/
def isGpio (w : Word) : Bool := decide (cfgStrat w = 0#2)

/-- STRAT = SPI. -/
def isSpi (w : Word) : Bool := decide (cfgStrat w = 1#2)

/-- The accepted configuration with every reserved bit 0: `zext_32({ord, 0b000, async, strat, proto})` (43_encoder.md R211). -/
def cfgAccepted (w : Word) : Word :=
  0#16 ++ cfgOrder w ++ 0#3 ++ BitVec.ofBool (cfgAsync w) ++ cfgStrat w ++ cfgProto w

/-- C, the channels per pixel: 3 for P24, 4 for P32 (`Cn <- 3 + proto`, 43_encoder.md R211). -/
def channels (proto : BitVec 2) : Nat := 3 + proto.toNat

/-- The timing parameters of the protocol (00_scope.md R7). -/
def timingOf (p : Params) (proto : BitVec 2) : Timing := if proto = 1#2 then p.p32 else p.p24

/-- SUPPORTED(s, p) (00_scope.md R7), for the strategies and protocols that exist. -/
def supported (p : Params) (strat proto : BitVec 2) : Bool :=
  if strat = 1#2 then (if proto = 1#2 then p.supSpiP32 else p.supSpiP24)
  else (if proto = 1#2 then p.supGpioP32 else p.supGpioP24)

/-! ### The channel order descriptor (30_encoding.md R113) -/

/-- oB = ORDER[1:0]. -/
def orderB (o : Byte) : Nat := (o.extractLsb' 0 2).toNat

/-- oG = ORDER[3:2]. -/
def orderG (o : Byte) : Nat := (o.extractLsb' 2 2).toNat

/-- oR = ORDER[5:4]. -/
def orderR (o : Byte) : Nat := (o.extractLsb' 4 2).toNat

/-- oW = ORDER[7:6]. -/
def orderW (o : Byte) : Nat := (o.extractLsb' 6 2).toNat

/-- The byte positions of the channels of a protocol: R, G, B, and W under P32 (43_encoder.md R213, R230). -/
def orderPositions (o : Byte) (proto : BitVec 2) : List Nat :=
  if proto = 1#2 then [orderR o, orderG o, orderB o, orderW o] else [orderR o, orderG o, orderB o]

/-- `order_ok(ord, proto)` (43_encoder.md R213): the positions name each slot 0 .. C-1 once. -/
def orderOk (o : Byte) (proto : BitVec 2) : Bool :=
  (List.range (channels proto)).all fun j => decide ((orderPositions o proto).count j = 1)

/-! ### Results -/

/-- HSVW, the TOHSV result: `{V[7:0], S[7:0], H[15:0]}` (R114). -/
def hsvWord (h s v : Int) : Word := BitVec.ofInt 8 v ++ BitVec.ofInt 8 s ++ BitVec.ofInt 16 h

/-- The CEQ result (R116). -/
def boolWord (b : Bool) : Word := if b then 1#32 else 0#32

end Sys2Proof.Machine
end

