-- ==== Sys2Proof/Machine/State.lean ====
section
/-! DEFINITION. The state of the block (10_state.md R20 to R45), the model's own fields (parameters, draws, the host's
accesses and the schedule, the two observations of 00_scope.md R10), the reasons a step can stop, and reset
(70_reset_and_hazards.md R321, R322). -/

namespace Sys2Proof.Machine

/-- The two RAMs, as bytes at block offsets (20_memory.md R71, R78): addresses strictly rising, a byte listed exactly when
it has been written since the last reset. -/
abbrev Memory := List Host.Cell

/-- CFGST (R39). -/
inductive CfgState where
  | unconfigured
  | configured
  | failed
  deriving DecidableEq, Repr

/-- ENC_STATE (R40). -/
inductive EncState where
  | idle
  | tx
  deriving DecidableEq, Repr

/-- HELD (R45): the host CMD write that has not completed yet. -/
inductive Held where
  | empty
  /-- A SHOW presented and not yet accepted (40_command_unit.md R132). -/
  | waitingShow
  /-- A CFG presented and not yet accepted (R132). -/
  | waitingCfg
  /-- An accepted SHOW with ASYNC = 0 whose frame has not ended (R133). -/
  | blockingShow
  deriving DecidableEq, Repr

/-- SNAP (R42, 43_encoder.md R218): the pixel words, CONFIG and NPIX at acceptance. -/
structure Snap where
  pixels : List Word
  config : Word
  npix   : Word
  deriving DecidableEq, Repr

/-- What drives the data line during a segment (43_encoder.md R250): outside TX every output is low. -/
inductive Driver where
  | idle
  /-- DOUT_G. -/
  | gpio
  /-- SPI_MOSI, for a whole SPI bit with its clock period. -/
  | spi
  /-- SPI_MOSI, for an SPI bit that a reset cut short (70_reset_and_hazards.md R324): its clock may not have risen. -/
  | spiCut
  deriving DecidableEq, Repr

/-- The three output pins (43_encoder.md R250). -/
inductive Pin where
  | doutG
  | spiMosi
  | spiSck
  deriving DecidableEq, Repr

/-- One segment `(level, ticks)` of the wire trace (00_scope.md R10), and what drives it. -/
structure Segment where
  driver : Driver
  level  : Bool
  ticks  : Nat
  deriving DecidableEq, Repr

/-- The errors of 60_exceptions.md R281. -/
inductive ErrCode where
  | illegalCmd
  | badStrategy
  | strategyUnavailable
  | unsupportedProtocol
  | invalidOrder
  | invalidNpix
  | allocFail
  | notConfigured
  | invalidPalette
  | badAccess
  deriving DecidableEq, Repr

/-- The reasons a step can stop with a fault. -/
inductive Fault where
  /-- A host write is held, its condition does not hold, and the encoder has no enabled step that could lift the hold:
  the 'stuck' of 93_implementation_defined.md U14. Raised by `step` alone; no reachable state shows it. Safe. -/
  | heldForever
  deriving DecidableEq, Repr

/-- The reasons a step can be refused. -/
inductive Refusal where
  /-- An instruction without a meaning yet, by its mnemonic; raised by `exec`'s refused arms, of which there is none. Safe. -/
  | notModelled (mnemonic : String)
  /-- The parameters break 00_scope.md R7 or R8: "such a build is not admitted, and the model has no meaning for it"
  (93_implementation_defined.md U12). Raised by `step` alone. Safe. -/
  | illegalBuild
  deriving DecidableEq, Repr

/-- The state. The first group is the block's own (10_state.md R20); registers that store nothing (ID, STATUS, CMD, the
CAP registers) are computed when read. -/
structure State where
  arg0     : Word
  arg1     : Word
  arg2     : Word
  res      : Word
  err      : Word
  config   : Word
  npix     : Word
  paln     : Word
  irqStat  : Word
  irqEn    : Word
  frames   : Word
  mem      : Memory
  cfgst    : CfgState
  encState : EncState
  seq      : Nat
  snap     : Snap
  gapOk    : Bool
  xbuf     : List Byte
  xlen     : Nat
  held     : Held
  /-- The model's own: the parameters of 00_scope.md R7 (log entry 1). -/
  params   : Params
  /-- The model's own: which reset the RAM draws belong to (log entry 2). -/
  ramEpoch : Nat
  /-- The model's own: how many draws have been used (log entry 3). -/
  draws    : Nat
  /-- The model's own: the accesses and loops the host has still to make, in program order (log entry 4). -/
  prog     : List HostOp
  /-- The model's own: whose turns come next (log entry 5). -/
  sched    : List Turn
  /-- The model's own: how many host steps have passed while the encoder waited for its next step of a free interleaving (log
  entry 5). -/
  passed   : Nat
  /-- The model's own: how many steps a free interleaving has given the encoder (log entry 5). -/
  picks    : Nat
  /-- The model's own: the values the host has read, oldest first (00_scope.md R10, log entry 6). -/
  reads    : List Word
  /-- The model's own: the wire trace, oldest segment first (00_scope.md R10, log entry 6). -/
  wire     : List Segment
  deriving DecidableEq, Repr

/-- Right after reset with the spec's default parameters (70_reset_and_hazards.md R321, R322): nothing written to RAM, no
access of the host's, no schedule, nothing observed. -/
def State.reset : State :=
  { arg0 := 0#32, arg1 := 0#32, arg2 := 0#32, res := 0#32, err := 0#32, config := 0#32, npix := 0#32, paln := 0#32,
    irqStat := 0#32, irqEn := 0#32, frames := 0#32, mem := [], cfgst := .unconfigured, encState := .idle, seq := 0,
    snap := { pixels := [], config := 0#32, npix := 0#32 }, gapOk := false, xbuf := [], xlen := 0, held := .empty,
    params := Params.default, ramEpoch := 0, draws := 1, prog := [], sched := [], passed := 0, picks := 0,
    reads := [], wire := [] }

end Sys2Proof.Machine
end

