-- ==== Sys2Proof/Machine/Ops.lean ====
section
/-! DEFINITION. The named operations over memory and registers: bytes and words of the two RAMs (10_state.md R37, R38,
20_memory.md R71, R78), the result register (40_command_unit.md R134), recording and clearing an error (60_exceptions.md
R280 to R284, the block's counterpart of taking an exception: it has no trap and no return), and appending to the wire trace
(00_scope.md R13). -/

namespace Sys2Proof.Machine

/-! ### Memory -/

/-- The canonical form of memory: addresses strictly rising. -/
abbrev Memory.wf (m : Memory) : Prop := m.Pairwise (fun x y => x.1 < y.1)

/-- What has been written at `a` since the last reset: nothing at an unlisted address. -/
def Memory.read : Memory → Nat → Option Byte
  | [], _ => none
  | (x, b) :: m, a => if a = x then some b else Memory.read m a

/-- Write the byte `b` at `a`, keeping the list in order. -/
def Memory.write : Memory → Nat → Byte → Memory
  | [], a, b => [(a, b)]
  | (x, c) :: m, a, b =>
    if a < x then (a, b) :: (x, c) :: m
    else if a = x then (a, b) :: m
    else (x, c) :: Memory.write m a b

/-- A word is four bytes, bits 7:0 at the lowest address (R78). -/
def Memory.writeWord (m : Memory) (off : Nat) (w : Word) : Memory :=
  (((m.write off (w.extractLsb' 0 8)).write (off + 1) (w.extractLsb' 8 8)).write (off + 2) (w.extractLsb' 16 8)).write
    (off + 3) (w.extractLsb' 24 8)

/-- The byte of RAM at offset `a`: the last one written since the last reset, else the reset draw (70_reset_and_hazards.md
R323: "it is what every read returns until the word is written"). -/
def State.ramByte (s : State) (a : Nat) : Byte := (s.mem.read a).getD (Config.ramDraw s.ramEpoch a)

/-- The word of RAM at offset `off` (R78). -/
def State.ramWord (s : State) (off : Nat) : Word :=
  s.ramByte (off + 3) ++ s.ramByte (off + 2) ++ s.ramByte (off + 1) ++ s.ramByte off

/-- Store a word of RAM; every bit is stored (10_state.md R37, R38). -/
def State.setRamWord (s : State) (off : Nat) (w : Word) : State := { s with mem := s.mem.writeWord off w }

/-- The offset of PAL[i] (R71). -/
def palOff (i : Nat) : Nat := 0x400 + 4 * i

/-- The offset of PIX[i] (R71). -/
def pixOff (i : Nat) : Nat := 0x1000 + 4 * i

/-- PAL[i] (00_scope.md R13). -/
def State.pal (s : State) (i : Nat) : Word := s.ramWord (palOff i)

/-- PIX[i] (00_scope.md R13). -/
def State.pix (s : State) (i : Nat) : Word := s.ramWord (pixOff i)

/-- `PAL[i] <- w`. -/
def State.setPal (s : State) (i : Nat) (w : Word) : State := s.setRamWord (palOff i) w

/-- `PIX[i] <- w`. -/
def State.setPix (s : State) (i : Nat) (w : Word) : State := s.setRamWord (pixOff i) w

/-- `for i in 0 .. n-1: PIX[i] <- f i` (43_encoder.md R219, R220). -/
def State.fillPixels (f : Nat → Word) : Nat → State → State
  | 0, s => s
  | n + 1, s => (State.fillPixels f n s).setPix n (f n)

/-! ### The result register -/

/-- `RES <- v`: a result-producing command's last action (40_command_unit.md R134). -/
def State.setRes (s : State) (v : Word) : State := { s with res := v }

/-! ### Errors -/

/-- The ERR.CODE value of an error (60_exceptions.md R281). -/
def ErrCode.code : ErrCode → Byte
  | .illegalCmd => 0x01#8
  | .badStrategy => 0x02#8
  | .strategyUnavailable => 0x03#8
  | .unsupportedProtocol => 0x04#8
  | .invalidOrder => 0x05#8
  | .invalidNpix => 0x06#8
  | .allocFail => 0x07#8
  | .notConfigured => 0x08#8
  | .invalidPalette => 0x09#8
  | .badAccess => 0x0A#8

/-- ERR.CODE = ERR[7:0] (10_state.md R25). -/
def errCode (e : Word) : Byte := e.extractLsb' 0 8

/-- ERR.MULTI = ERR[8] (10_state.md R25). -/
def errMulti (e : Word) : Bool := e.getLsbD 8

/-- ERR.OPC = ERR[23:16] (10_state.md R25). -/
def errOpc (e : Word) : Byte := e.extractLsb' 16 8

/-- ERR.ACC = ERR[24] (10_state.md R25). -/
def errAcc (e : Word) : Bool := e.getLsbD 24

/-- ERR with its CODE, OPC and ACC fields set and its other bits kept. -/
def errSet (e : Word) (code opc : Byte) (acc : Bool) : Word :=
  e.extractLsb' 25 7 ++ BitVec.ofBool acc ++ opc ++ e.extractLsb' 8 8 ++ code

/-- `record(E, opc, acc)` (60_exceptions.md R283) on the ERR word. -/
def errRecord (e : Word) (code : ErrCode) (opc : Byte) (acc : Bool) : Word :=
  if errCode e = 0#8 then errSet e code.code (if acc then 0#8 else opc) acc else e ||| 0x100#32

/-- Record an error: the one thing an erroring command or access changes (60_exceptions.md R280, R283). -/
def State.record (s : State) (code : ErrCode) (opc : Byte) (acc : Bool) : State :=
  { s with err := errRecord s.err code opc acc }

/-- `raise E(opc)`: `record(E, opc, 0)` and the end of the command (R283, 00_scope.md R13). -/
def State.raise (s : State) (code : ErrCode) (opc : Byte) : State := s.record code opc false

/-- A BAD_ACCESS: no effect but ERR, with ACC = 1 and OPC = 0 (20_memory.md R73, 60_exceptions.md R283). -/
def State.badAccess (s : State) : State := s.record .badAccess 0#8 true

/-- Any host write to ERR clears it (60_exceptions.md R284). -/
def State.clearErr (s : State) : State := { s with err := 0#32 }

/-! ### Observations -/

/-- `emit(level, ticks)` (00_scope.md R13), with the unit that drives the line. -/
def State.emit (s : State) (d : Driver) (level : Bool) (ticks : Nat) : State :=
  { s with wire := s.wire ++ [{ driver := d, level := level, ticks := ticks }] }

/-- The host reads `v` (00_scope.md R10). -/
def State.observe (s : State) (v : Word) : State := { s with reads := s.reads ++ [v] }

end Sys2Proof.Machine
end

