-- ==== Sys2Proof/Machine/Color.lean ====
section
/-! DEFINITION. The colour unit (41_color.md): the common functions R145, R148, R151, R154 over exact integers, narrowed at
the end, and one meaning per command. No colour command is held, fails or writes anything but RES. -/

namespace Sys2Proof.Machine

/-! ### Common functions -/

/-- The sector table of R145: (r1, g1, b1) for chroma `c` and second component `x`. -/
def sectorTable (sec c x : Int) : Int × Int × Int :=
  if sec = 0 then (c, x, 0)
  else if sec = 1 then (x, c, 0)
  else if sec = 2 then (0, c, x)
  else if sec = 3 then (0, x, c)
  else if sec = 4 then (x, 0, c)
  else (c, 0, x)

/-- X, the second component (R145, R148): `(C * (if sec mod 2 = 0 then f else 60 - f)) div 60`. -/
def secondComponent (h c : Int) : Int :=
  c * (if h / 60 % 2 = 0 then h % 60 else 60 - h % 60) / 60

/-- `rgbw(0, r1 + m, g1 + m, b1 + m)` for the sector of the hue (R145, R148). -/
def fromChroma (h c m : Int) : Word :=
  let rgb := sectorTable (h / 60) c (secondComponent h c)
  rgbw 0#8 (BitVec.ofInt 8 (rgb.1 + m)) (BitVec.ofInt 8 (rgb.2.1 + m)) (BitVec.ofInt 8 (rgb.2.2 + m))

/-- The HSV chroma `C = (v * s) div 255` (R145). -/
def hsvChroma (s v : Int) : Int := v * s / 255

/-- `hsv2rgb(h, s, v)` (R145). -/
def hsv2rgb (h s v : Int) : Word := fromChroma h (hsvChroma s v) (v - hsvChroma s v)

/-- The HSL chroma `C = ((255 - |2*l - 255|) * s) div 255` (R148). -/
def hslChroma (s l : Int) : Int := (255 - ((2 * l - 255).natAbs : Int)) * s / 255

/-- `hsl2rgb(h, s, l)` (R148). -/
def hsl2rgb (h s l : Int) : Word := fromChroma h (hslChroma s l) (l - hslChroma s l / 2)

/-- The three results of `rgb2hsv` (R151). -/
structure Hsv where
  h : Int
  s : Int
  v : Int
  deriving DecidableEq, Repr

/-- `rgb2hsv(c)` (R151): ties for the maximum go red first, then green; the W lane is not read. -/
def rgb2hsv (c : Word) : Hsv :=
  let r : Int := (laneR c).toNat
  let g : Int := (laneG c).toNat
  let b : Int := (laneB c).toNat
  let M := max r (max g b)
  let n := min r (min g b)
  let d := M - n
  { h := if d = 0 then 0
         else if M = r then (60 * (g - b) + 360 * d) / d % 360
         else if M = g then (60 * (b - r) + 120 * d) / d
         else (60 * (r - g) + 240 * d) / d
    s := if M = 0 then 0 else 255 * d / M
    v := M }

/-- One lane of `blend`: `(a * (256 - k) + b * k + 128) >> 8` (R154). -/
def blendLane (k : Nat) (a b : Byte) : Byte := BitVec.ofNat 8 ((a.toNat * (256 - k) + b.toNat * k + 128) / 256)

/-- `blend(a, b, k)` (R154), with k in [0,256]. -/
def blend (a b : Word) (k : Nat) : Word := zipLanes (blendLane k) a b

/-- One lane of SCALE: `min(255, (L * kk) >> 8)` (R157). -/
def scaleLane (k : Nat) (a : Byte) : Byte := BitVec.ofNat 8 (min 255 (a.toNat * k / 256))

/-- SAT on a colour word (R158): `{W(x0), hsv2rgb(H, amount, V)[23:0]}`. -/
def saturate (x : Word) (amount : Int) : Word :=
  laneW x ++ (hsv2rgb (rgb2hsv x).h amount (rgb2hsv x).v).extractLsb' 0 24

/-! ### Commands -/

/-- CPK24 (R142). -/
def execCpk24 (s : State) : Host.Outcome State Fault Refusal :=
  .next (s.setRes (0#8 ++ s.arg0.extractLsb' 0 24))

/-- HSVD (R146). -/
def execHsvd (s : State) : Host.Outcome State Fault Refusal :=
  .next (s.setRes (hsv2rgb (hueDegrees (low16 s.arg0)) (channel s.arg1) (channel s.arg2)))

/-- HSVF (R147). -/
def execHsvf (s : State) : Host.Outcome State Fault Refusal :=
  .next (s.setRes (hsv2rgb (hueFraction (low16 s.arg0)) (channel s.arg1) (channel s.arg2)))

/-- HSLD (R149). -/
def execHsld (s : State) : Host.Outcome State Fault Refusal :=
  .next (s.setRes (hsl2rgb (hueDegrees (low16 s.arg0)) (channel s.arg1) (channel s.arg2)))

/-- HSLF (R150). -/
def execHslf (s : State) : Host.Outcome State Fault Refusal :=
  .next (s.setRes (hsl2rgb (hueFraction (low16 s.arg0)) (channel s.arg1) (channel s.arg2)))

/-- TOHSV (R152). -/
def execTohsv (s : State) : Host.Outcome State Fault Refusal :=
  .next (s.setRes (hsvWord (rgb2hsv s.arg0).h (rgb2hsv s.arg0).s (rgb2hsv s.arg0).v))

/-- LERP (R155). -/
def execLerp (s : State) : Host.Outcome State Fault Refusal :=
  .next (s.setRes (blend s.arg0 s.arg1 (fractionK (low16 s.arg2))))

/-- RLERP (R156): t is clamped first and then reversed. -/
def execRlerp (s : State) : Host.Outcome State Fault Refusal :=
  .next (s.setRes (blend s.arg0 s.arg1 (256 - fractionK (low16 s.arg2))))

/-- SCALE (R157). -/
def execScale (s : State) : Host.Outcome State Fault Refusal :=
  .next (s.setRes (mapLanes (scaleLane (fractionK (low16 s.arg2))) s.arg0))

/-- SAT (R158). -/
def execSat (s : State) : Host.Outcome State Fault Refusal :=
  .next (s.setRes (saturate s.arg0 (channel s.arg1)))

/-- CEQ (R159). -/
def execCeq (s : State) : Host.Outcome State Fault Refusal :=
  .next (s.setRes (boolWord (decide (s.arg0 = s.arg1))))

end Sys2Proof.Machine
end

