-- ==== Sys2Proof/Machine/Control.lean ====
section
/-! DEFINITION. The control unit's command: NOP (40_command_unit.md R136). -/

namespace Sys2Proof.Machine

/-- NOP (R136): `skip`. -/
def execNop (s : State) : Host.Outcome State Fault Refusal := .next s

end Sys2Proof.Machine
end

