-- ==== Sys2Proof/Machine/Flags.lean ====
section
/-! DEFINITION. Every status bit the block computes: STATUS (10_state.md R24), the IRQ output (R32), the conditions of the
holds (40_command_unit.md R132), and the capability words (R34 to R36). The block has no arithmetic flags (R47). -/

namespace Sys2Proof.Machine

/-- STATUS.BUSY (R24): 1 iff a SHOW written now would be held. -/
def State.busy (s : State) : Bool :=
  decide (s.encState = .tx) || (decide (s.cfgst = .configured) && isGpio s.config && !s.gapOk)

/-- The condition an accepted SHOW waits for: `ENC_STATE = IDLE and (CONFIG.STRAT = SPI or GAP_OK = 1)` (R132). -/
def State.showReady (s : State) : Bool := decide (s.encState = .idle) && (isSpi s.config || s.gapOk)

/-- The condition an accepted CFG waits for: `ENC_STATE = IDLE` (R132). -/
def State.cfgReady (s : State) : Bool := decide (s.encState = .idle)

/-- STATUS.CFGST (R24). -/
def CfgState.code : CfgState → BitVec 2
  | .unconfigured => 0#2
  | .configured => 1#2
  | .failed => 2#2

/-- STATUS.PALOK (R24): 1 iff PALN ≥ 1. -/
def State.palOk (s : State) : Bool := decide (1 ≤ s.paln.toNat)

/-- STATUS.ERRV (R24): 1 iff ERR.CODE ≠ 0. -/
def State.errv (s : State) : Bool := decide (errCode s.err ≠ 0#8)

/-- The STATUS word, computed on every read (R24). -/
def State.status (s : State) : Word :=
  0#24 ++ BitVec.ofBool s.errv ++ BitVec.ofBool s.palOk ++ s.cfgst.code ++ 0#1 ++ BitVec.ofBool s.gapOk ++
    BitVec.ofBool (decide (s.encState = .tx)) ++ BitVec.ofBool s.busy

/-- IRQ_STAT.DONE (R30). -/
def State.done (s : State) : Bool := s.irqStat.getLsbD 0

/-- The interrupt output (R32). -/
def State.irq (s : State) : Bool :=
  (s.done && s.irqEn.getLsbD 0) || (s.errv && s.irqEn.getLsbD 1)

/-- ID (R23): ASCII "PXL1". -/
def idWord : Word := 0x50584C31#32

/-- CAP_PIX (R34). -/
def capPixWord (p : Params) : Word := BitVec.ofNat 32 p.pixelCap

/-- CAP_MISC (R35): PAL_CAP in bits 8:0, HAS_GPIO in bit 16, HAS_SPI in bit 17. -/
def capMiscWord (p : Params) : Word :=
  0#14 ++ BitVec.ofBool p.hasSpi ++ BitVec.ofBool p.hasGpio ++ 0#7 ++ BitVec.ofNat 9 p.palCap

/-- CAP_XBUF (R36). -/
def capXbufWord (p : Params) : Word := BitVec.ofNat 32 p.spiBufBytes

end Sys2Proof.Machine
end

