-- ==== Sys2Proof/Machine/Frame.lean ====
section
/-! DEFINITION. A frame as a function of SNAP and the parameters (43_encoder.md R214, R223, R230 to R236, R246, R248). -/

namespace Sys2Proof.Machine

/-- One 3-bit group of the expansion: `1, b, 0` (43_encoder.md R223). -/
def enc3Group (b : Bool) : BitVec 3 := 1#1 ++ BitVec.ofBool b ++ 0#1

/-- `enc3(b)` (R223): the groups of b[7], b[6], ..., b[0], from bit 23 down. -/
def enc3 (b : Byte) : BitVec 24 :=
  enc3Group (b.getLsbD 7) ++ enc3Group (b.getLsbD 6) ++ enc3Group (b.getLsbD 5) ++ enc3Group (b.getLsbD 4) ++
    enc3Group (b.getLsbD 3) ++ enc3Group (b.getLsbD 2) ++ enc3Group (b.getLsbD 1) ++ enc3Group (b.getLsbD 0)

/-- The three bytes of an expansion, high byte first (R235, 20_memory.md R80). -/
def enc3Bytes (b : Byte) : List Byte := [(enc3 b).extractLsb' 16 8, (enc3 b).extractLsb' 8 8, (enc3 b).extractLsb' 0 8]

/-- XLEN = NPIX * C * 3 + 2 * PADB[PROTO] (R214, conflict C1). -/
def spiLength (p : Params) (proto : BitVec 2) (n : Nat) : Nat := n * channels proto * 3 + 2 * (timingOf p proto).padb

/-- `slot(c, j)`: the channel byte whose position equals j (R231). W is a channel under P32 only (R230). -/
def slot (config : Word) (c : Word) (j : Nat) : Byte :=
  let o := cfgOrder config
  if orderR o = j then laneR c
  else if orderG o = j then laneG c
  else if orderB o = j then laneB c
  else if cfgProto config = 1#2 ∧ orderW o = j then laneW c
  else 0#8

/-- The frame bytes of one pixel: slots 0 .. C-1 (R232). -/
def pixelBytes (config : Word) (c : Word) : List Byte := (List.range (channels (cfgProto config))).map (slot config c)

/-- FB, the frame bytes: pixels in index order (R232). -/
def frameBytes (n : Snap) : List Byte := n.pixels.flatMap (pixelBytes n.config)

/-- FBITS = NPIX * 8 * C (R233). -/
def frameBits (n : Snap) : Nat := n.npix.toNat * 8 * channels (cfgProto n.config)

/-- Bit `k` of a byte string, bit 7 of each byte first (R232, 20_memory.md R79, R80). -/
def streamBit (bs : List Byte) (k : Nat) : Bool := (bs.getD (k / 8) 0#8).getLsbD (7 - k % 8)

/-- Frame bit k: `FB[k div 8][7 - (k mod 8)]` (R232). -/
def frameBit (n : Snap) (k : Nat) : Bool := streamBit (frameBytes n) k

/-- `xbuf(SNAP)` (R235): leading padding, three bytes per frame byte, trailing padding. -/
def xbufOf (p : Params) (n : Snap) : List Byte :=
  let padb := (timingOf p (cfgProto n.config)).padb
  List.replicate padb 0#8 ++ (frameBytes n).flatMap enc3Bytes ++ List.replicate padb 0#8

/-- The high time of a data bit (R246). -/
def highTicks (t : Timing) (b : Bool) : Nat := if b then t.t1h else t.t0h

/-- The GPIO waveform of a data bit: one high pulse, then one low pulse (R246). -/
def gpioBitWave (t : Timing) (b : Bool) : List Segment :=
  [{ driver := .gpio, level := true, ticks := highTicks t b },
   { driver := .gpio, level := false, ticks := t.tbit - highTicks t b }]

/-- The SPI waveform of one SPI bit (R248). -/
def spiBitWave (t : Timing) (b : Bool) : List Segment := [{ driver := .spi, level := b, ticks := t.subbit }]

/-- The timing of the frame's protocol (R241). -/
def Snap.timing (n : Snap) (p : Params) : Timing := timingOf p (cfgProto n.config)

end Sys2Proof.Machine
end

