-- ==== Sys2Proof/Machine/Encoder.lean ====
section
/-! DEFINITION. The signal encoder's commands (43_encoder.md R211 to R223): CFG, SHOW, FILL, PFILL, PIXR, ENC3. -/

namespace Sys2Proof.Machine

/-! ### CFG -/

/-- The checks of CFG, in the order of R211 and R212: the first that fails is the error reported. -/
def cfgCheck (p : Params) (w n : Word) : Option ErrCode :=
  if 1 < (cfgStrat w).toNat then some .badStrategy
  else if (cfgStrat w = 0#2 ∧ p.hasGpio = false) ∨ (cfgStrat w = 1#2 ∧ p.hasSpi = false) then some .strategyUnavailable
  else if 1 < (cfgProto w).toNat ∨ supported p (cfgStrat w) (cfgProto w) = false then some .unsupportedProtocol
  else if orderOk (cfgOrder w) (cfgProto w) = false then some .invalidOrder
  else if n.toNat = 0 ∨ p.pixelCap < n.toNat then some .invalidNpix
  else if cfgStrat w = 1#2 ∧ p.spiBufBytes < spiLength p (cfgProto w) n.toNat then some .allocFail
  else none

/-- The last four lines of R211: the effect of a CFG that passes every check (R215). -/
def State.configure (s : State) (w n : Word) : State :=
  { s with
    config := cfgAccepted w
    npix := n
    xlen := if cfgStrat w = 1#2 then spiLength s.params (cfgProto w) n.toNat else 0
    cfgst := .configured }

/-- CFG (R211): held until IDLE; `cfg_fail(E)` sets CFGST = FAILED and raises E (R216). -/
def execCfg (s : State) : Host.Outcome State Fault Refusal :=
  .next (if s.cfgReady then
      match cfgCheck s.params s.arg0 s.arg1 with
      | some e => { s with cfgst := .failed }.raise e 0x30#8
      | none => s.configure s.arg0 s.arg1
    else { s with held := .waitingCfg })

/-! ### SHOW -/

/-- The check of SHOW, FILL, PFILL and PIXR: NOT_CONFIGURED while CFGST ≠ CONFIGURED (R216), else the command's effect. -/
def State.withConfigured (s : State) (opc : Byte) (k : State) : State :=
  if s.cfgst = .configured then k else s.raise .notConfigured opc

/-- `SNAP <- (PIX[0], ..., PIX[NPIX-1]), with CONFIG and NPIX` (R217, R218). -/
def State.takeSnap (s : State) : Snap :=
  { pixels := (List.range s.npix.toNat).map s.pix, config := s.config, npix := s.npix }

/-- The acceptance of a SHOW: one atomic step (R217). The idle length L is a draw (R254); a blocking SHOW stays in HELD
until its frame ends (40_command_unit.md R133). -/
def State.acceptShow (s : State) : State :=
  { s.emit .idle false (Config.draw s.draws) with
    snap := s.takeSnap
    xbuf := if isSpi s.config then xbufOf s.params s.takeSnap else s.xbuf
    draws := s.draws + 1
    encState := .tx
    seq := 0
    held := if cfgAsync s.config then .empty else .blockingShow }

/-- SHOW (R217). -/
def execShow (s : State) : Host.Outcome State Fault Refusal :=
  .next (s.withConfigured 0x31#8 (if s.showReady then s.acceptShow else { s with held := .waitingShow }))

/-! ### Direct writes, direct read, expansion -/

/-- FILL (R219). -/
def execFill (s : State) : Host.Outcome State Fault Refusal :=
  .next (s.withConfigured 0x32#8 (State.fillPixels (fun _ => s.arg0) s.npix.toNat s))

/-- PFILL (R220): NOT_CONFIGURED before INVALID_PALETTE. -/
def execPfill (s : State) : Host.Outcome State Fault Refusal :=
  .next (s.withConfigured 0x33#8
    (if s.paln.toNat = 0 then s.raise .invalidPalette 0x33#8
     else State.fillPixels (fun i => s.pal (i % s.paln.toNat)) s.npix.toNat s))

/-- PIXR (R221). -/
def execPixr (s : State) : Host.Outcome State Fault Refusal :=
  .next (s.withConfigured 0x34#8 (s.setRes (s.pix (wrapIndex (signedIndex s.arg0) s.npix.toNat))))

/-- ENC3 (R222, R115). -/
def execEnc3 (s : State) : Host.Outcome State Fault Refusal :=
  .next (s.setRes (0#8 ++ enc3 (low8 s.arg0)))

end Sys2Proof.Machine
end

