-- ==== Sys2Proof/Machine/Palette.lean ====
section
/-! DEFINITION. The palette sampler (42_palette.md): PSETN, PGETI, PGETF, PRAND. -/

namespace Sys2Proof.Machine

/-- The check of every sampling command: INVALID_PALETTE while PALN = 0 (R190), else the command's effect. -/
def State.withPalette (s : State) (opc : Byte) (k : State) : State :=
  if s.paln.toNat = 0 then s.raise .invalidPalette opc else k

/-- `PAL[wrap(i, PALN)]` (R192). -/
def State.paletteAt (s : State) (i : Int) : Word := s.pal (wrapIndex i s.paln.toNat)

/-- `r <- draw()`, r in [0, PALN) (R196): a free value (log entry 3). -/
def State.drawIndex (s : State) : Nat := Config.draw s.draws % s.paln.toNat

/-- PSETN (R191). -/
def execPsetn (s : State) : Host.Outcome State Fault Refusal :=
  .next (if s.arg0.toNat = 0 ∨ s.params.palCap < s.arg0.toNat then s.raise .invalidPalette 0x20#8
    else { s with paln := s.arg0 })

/-- PGETI (R193). -/
def execPgeti (s : State) : Host.Outcome State Fault Refusal :=
  .next (s.withPalette 0x21#8 (s.setRes (s.paletteAt (signedIndex s.arg0))))

/-- PGETF (R195). -/
def execPgetf (s : State) : Host.Outcome State Fault Refusal :=
  .next (s.withPalette 0x22#8
    (s.setRes (blend (s.paletteAt (indexInt s.arg0)) (s.paletteAt (indexInt s.arg0 + 1)) (indexFrac s.arg0))))

/-- PRAND (R196). The draw is used up, so the next one is another free value. -/
def execPrand (s : State) : Host.Outcome State Fault Refusal :=
  .next (s.withPalette 0x23#8 { s.setRes (s.pal s.drawIndex) with draws := s.draws + 1 })

end Sys2Proof.Machine
end

