-- ==== Sys2Proof/Machine/Dispatch.lean ====
section
/-! DEFINITION. exec: one arm per command (40_command_unit.md R130). -/

namespace Sys2Proof.Machine

def exec (i : Instr) (s : State) : Host.Outcome State Fault Refusal :=
  match i with
  | .nop => Sys2Proof.Machine.execNop s
  | .cpk24 => Sys2Proof.Machine.execCpk24 s
  | .hsvd => Sys2Proof.Machine.execHsvd s
  | .hsvf => Sys2Proof.Machine.execHsvf s
  | .hsld => Sys2Proof.Machine.execHsld s
  | .hslf => Sys2Proof.Machine.execHslf s
  | .tohsv => Sys2Proof.Machine.execTohsv s
  | .lerp => Sys2Proof.Machine.execLerp s
  | .rlerp => Sys2Proof.Machine.execRlerp s
  | .scale => Sys2Proof.Machine.execScale s
  | .sat => Sys2Proof.Machine.execSat s
  | .ceq => Sys2Proof.Machine.execCeq s
  | .psetn => Sys2Proof.Machine.execPsetn s
  | .pgeti => Sys2Proof.Machine.execPgeti s
  | .pgetf => Sys2Proof.Machine.execPgetf s
  | .prand => Sys2Proof.Machine.execPrand s
  | .cfg => Sys2Proof.Machine.execCfg s
  | .showFrame => Sys2Proof.Machine.execShow s
  | .fill => Sys2Proof.Machine.execFill s
  | .pfill => Sys2Proof.Machine.execPfill s
  | .pixr => Sys2Proof.Machine.execPixr s
  | .enc3 => Sys2Proof.Machine.execEnc3 s

end Sys2Proof.Machine
end

