-- ==== Sys2Proof/Machine/Bus.lean ====
section
/-! DEFINITION. Host accesses (20_memory.md R70 to R77): the address map, reads and writes of registers and RAM words, and
the issue of a command by a CMD write (40_command_unit.md R130). -/

namespace Sys2Proof.Machine

/-- The offset of CMD (R71). -/
def cmdOff : Nat := 0x00C

/-- The registers of the address map (R71). -/
def regTable : List (Nat × Reg) :=
  [(0x000, .id), (0x004, .status), (0x008, .err), (0x00C, .cmd), (0x010, .arg0), (0x014, .arg1), (0x018, .arg2),
   (0x01C, .res), (0x020, .config), (0x024, .npix), (0x028, .paln), (0x02C, .irqStat), (0x030, .irqEn),
   (0x034, .frames), (0x038, .capPix), (0x03C, .capMisc), (0x040, .capXbuf)]

/-- The address map on word-aligned offsets (R71): nothing at a reserved offset or outside the aperture (R74). -/
def mapOffset (p : Params) (off : Nat) : Option Target :=
  match regTable.lookup off with
  | some r => some (.reg r)
  | none =>
    if 0x400 ≤ off ∧ off < 0x400 + 4 * p.palCap then some (.pal ((off - 0x400) / 4))
    else if 0x1000 ≤ off ∧ off < 0x1000 + 4 * p.pixelCap then some (.pix ((off - 0x1000) / 4))
    else none

/-- The value of a register read (10_state.md R21 to R36). CMD holds no value and reads 0 (R26). -/
def State.readReg (s : State) : Reg → Word
  | .id => idWord
  | .status => s.status
  | .err => s.err
  | .cmd => 0#32
  | .arg0 => s.arg0
  | .arg1 => s.arg1
  | .arg2 => s.arg2
  | .res => s.res
  | .config => s.config
  | .npix => s.npix
  | .paln => s.paln
  | .irqStat => s.irqStat
  | .irqEn => s.irqEn
  | .frames => s.frames
  | .capPix => capPixWord s.params
  | .capMisc => capMiscWord s.params
  | .capXbuf => capXbufWord s.params

/-- The value of a legal read (R72). -/
def State.readTarget (s : State) : Target → Word
  | .reg r => s.readReg r
  | .pal i => s.pal i
  | .pix i => s.pix i

/-- Issue (40_command_unit.md R130): the command of the written word, or ILLEGAL_CMD(OPC) where the opcode is reserved
(30_encoding.md R103). -/
def issue (w : Word) (s : State) : Host.Outcome State Fault Refusal :=
  match decode w with
  | .ok i => exec i s
  | .error (.reservedOpcode opc) => .next (s.raise .illegalCmd opc)

/-- A write to a register (10_state.md R21 to R36): CMD issues a command, ERR is cleared by any value, IRQ_STAT is
write-1-to-clear, IRQ_EN keeps bits 1:0, and a write to an RO register is a BAD_ACCESS (20_memory.md R75, R76). -/
def State.writeReg (s : State) (w : Word) : Reg → Host.Outcome State Fault Refusal
  | .cmd => issue w s
  | .err => .next s.clearErr
  | .arg0 => .next { s with arg0 := w }
  | .arg1 => .next { s with arg1 := w }
  | .arg2 => .next { s with arg2 := w }
  | .irqStat => .next { s with irqStat := s.irqStat &&& ~~~(w &&& 1#32) }
  | .irqEn => .next { s with irqEn := w &&& 3#32 }
  | .id => .next s.badAccess
  | .status => .next s.badAccess
  | .res => .next s.badAccess
  | .config => .next s.badAccess
  | .npix => .next s.badAccess
  | .paln => .next s.badAccess
  | .frames => .next s.badAccess
  | .capPix => .next s.badAccess
  | .capMisc => .next s.badAccess
  | .capXbuf => .next s.badAccess

/-- A legal write (R72). -/
def State.writeTarget (s : State) (w : Word) : Target → Host.Outcome State Fault Refusal
  | .reg r => s.writeReg w r
  | .pal i => .next (s.setPal i w)
  | .pix i => .next (s.setPix i w)

/-- What an access reaches: nothing if it is of an illegal size or alignment (R73), at a reserved offset or outside the
aperture (R74). -/
def accessTarget (p : Params) (a : Access) : Option Target :=
  if a.aligned then mapOffset p a.off else none

/-- One host access (R72 to R76). A BAD_ACCESS changes nothing but ERR, and as a read returns 0 (R73). -/
def hostAccess (a : Access) (s : State) : Host.Outcome State Fault Refusal :=
  match a.dir with
  | .read =>
    match accessTarget s.params a with
    | some t => .next (s.observe (s.readTarget t))
    | none => .next (s.badAccess.observe 0#32)
  | .write =>
    match accessTarget s.params a with
    | some t => s.writeTarget a.wdata t
    | none => .next s.badAccess

/-- The read that WAITIDLE repeats (30_encoding.md R120): `RD STATUS`. -/
def statusRead : Access := { dir := .read, off := 0x004, size := 4, wdata := 0#32 }

/-- The CMD write of a command word (30_encoding.md R100, R119). -/
def cmdWrite (w : Word) : Access := { dir := .write, off := cmdOff, size := 4, wdata := w }

end Sys2Proof.Machine
end

