-- ==== Sys2Proof/Machine/Program.lean ====
section
/-! DEFINITION. The host-program notation and its encoding (30_encoding.md R119 to R121): a program is the sequence of its
bus operations, WAITIDLE being a loop of one. -/

namespace Sys2Proof.Machine

/-- The offset of a register (20_memory.md R71). -/
def regOff : Reg → Nat
  | .id => 0x000
  | .status => 0x004
  | .err => 0x008
  | .cmd => 0x00C
  | .arg0 => 0x010
  | .arg1 => 0x014
  | .arg2 => 0x018
  | .res => 0x01C
  | .config => 0x020
  | .npix => 0x024
  | .paln => 0x028
  | .irqStat => 0x02C
  | .irqEn => 0x030
  | .frames => 0x034
  | .capPix => 0x038
  | .capMisc => 0x03C
  | .capXbuf => 0x040

/-- The offset of a target (R119). -/
def targetOff : HostTarget → Nat
  | .named (.reg r) => regOff r
  | .named (.pal i) => palOff i
  | .named (.pix i) => pixOff i
  | .offset off => off

/-- `WR <target>, <value>` (R119); a value is taken modulo 2^32. -/
def wrAccess (t : HostTarget) (v : Int) : Access :=
  { dir := .write, off := targetOff t, size := 4, wdata := BitVec.ofInt 32 v }

/-- `RD <target>` (R119). -/
def rdAccess (t : HostTarget) : Access := { dir := .read, off := targetOff t, size := 4, wdata := 0#32 }

/-- The operand writes of `<MNEMONIC> a0, a1, a2`: an operand `_` is not written (R120). -/
def operandWrites : List Reg → List (Option Int) → List Access
  | r :: rs, some v :: vs => wrAccess (.named (.reg r)) v :: operandWrites rs vs
  | _ :: rs, none :: vs => operandWrites rs vs
  | _, _ => []

/-- `WR PAL[i], c0` ; ... (R120). -/
def paletteWrites : Nat → List Int → List Access
  | _, [] => []
  | i, c :: cs => wrAccess (.named (.pal i)) c :: paletteWrites (i + 1) cs

/-- The bus operations of a line without a loop (R119, R120). -/
def HostLine.accesses : HostLine → List Access
  | .wr t v => [wrAccess t v]
  | .rd t => [rdAccess t]
  | .cmd i => [cmdWrite (encode i)]
  | .op i args => operandWrites [.arg0, .arg1, .arg2] args ++ [cmdWrite (encode i)]
  | .setPix i c => [wrAccess (.named (.pix i)) c]
  | .setPal i c => [wrAccess (.named (.pal i)) c]
  | .loadPal cs => paletteWrites 0 cs ++ [wrAccess (.named (.reg .arg0)) cs.length, cmdWrite (encode .psetn)]
  | .clrErr => [wrAccess (.named (.reg .err)) 0]
  | .ackDone => [wrAccess (.named (.reg .irqStat)) 1]
  | .waitIdle => []

/-- The bus operations of one line (R119 to R121); WAITIDLE repeats `RD STATUS` until it reads BUSY = 0, which `pollStatus` of
Schedule.lean does. -/
def HostLine.expand : HostLine → List HostOp
  | .waitIdle => [.waitIdle]
  | l => (HostLine.accesses l).map .access

/-- The encoding of a host program (R121). -/
def encodeProgram (ls : List HostLine) : List HostOp := ls.flatMap HostLine.expand

end Sys2Proof.Machine
end

