-- ==== Sys2Proof/Machine/Agent.lean ====
section
/-! DEFINITION. The encoder agent (43_encoder.md R240 to R254): the GPIO bit step, the SPI bit step, the end of a frame and
the gap-elapsed step. The strategy, the protocol and ASYNC of a frame are SNAP's (R218, R241). -/

namespace Sys2Proof.Machine

/-- A GPIO bit step is enabled: TX, the frame's strategy is GPIO, and SEQ < FBITS (R242). -/
def State.gpioStepEnabled (s : State) : Bool :=
  decide (s.encState = .tx) && isGpio s.snap.config && decide (s.seq < frameBits s.snap)

/-- An SPI bit step is enabled: TX, the frame's strategy is SPI, and SEQ < 8*XLEN (R243). -/
def State.spiStepEnabled (s : State) : Bool :=
  decide (s.encState = .tx) && isSpi s.snap.config && decide (s.seq < 8 * s.xlen)

/-- The gap-elapsed step is enabled: IDLE and GAP_OK = 0 (R253). -/
def State.gapStepEnabled (s : State) : Bool := decide (s.encState = .idle) && !s.gapOk

/-- The encoder has a step (R240): "in every other state it has no step". -/
def State.encoderEnabled (s : State) : Bool := s.gpioStepEnabled || s.spiStepEnabled || s.gapStepEnabled

/-- `frame_end()` (R244). A blocking SHOW still in HELD is this frame's: its write completes. -/
def State.frameEnd (s : State) : State :=
  { s with
    encState := .idle
    frames := s.frames + 1#32
    irqStat := s.irqStat ||| 1#32
    gapOk := isSpi s.snap.config
    held := if s.held = .blockingShow then .empty else s.held }

/-- The waveform of the data bit or SPI bit at SEQ: what the next encoder step of a frame emits (R242, R243). -/
def State.currentWave (s : State) : List Segment :=
  if isSpi s.snap.config then spiBitWave (s.snap.timing s.params) (streamBit s.xbuf s.seq)
  else gpioBitWave (s.snap.timing s.params) (frameBit s.snap s.seq)

/-- The end value of SEQ: FBITS under GPIO, 8*XLEN under SPI (10_state.md R41). -/
def State.seqEnd (s : State) : Nat := if isSpi s.snap.config then 8 * s.xlen else frameBits s.snap

/-- One bit step of a frame: emit, advance SEQ, and end the frame after the last bit (R242, R243). -/
def State.bitStep (s : State) : State :=
  let t : State := { s with wire := s.wire ++ s.currentWave, seq := s.seq + 1 }
  if s.seq + 1 = s.seqEnd then t.frameEnd else t

/-- The gap-elapsed step (R253): `emit(0, RESET_TICKS)` and `GAP_OK <- 1`. -/
def State.gapStep (s : State) : State := { s.emit .idle false s.params.resetTicks with gapOk := true }

/-- The encoder's step, where it has one (R240). -/
def State.encoderStep (s : State) : State :=
  if s.gpioStepEnabled || s.spiStepEnabled then s.bitStep
  else if s.gapStepEnabled then s.gapStep
  else s

/-! ### The three output pins (R250, R251) -/

/-- How long SPI_SCK stays low at the start of a whole SPI bit, in half ticks: it rises at a free point strictly inside the bit
and falls at the bit's end, where SPI_MOSI changes (R251, log entry 8). -/
def sckLow (n ticks : Nat) : Nat := 1 + Config.sckRise n % (2 * ticks - 1)

/-- The same for a bit that a reset cut short: the cut may come before the rise. -/
def sckCutLow (n ticks : Nat) : Nat := Config.sckRise n % (2 * ticks + 1)

/-- What a pin does during segment number `n` of the wire trace, as (level, half ticks): its own signal while its unit drives
it, else low (R250). -/
def Segment.onPin (p : Pin) (n : Nat) (g : Segment) : List (Bool × Nat) :=
  match p, g.driver with
  | .doutG, .gpio => [(g.level, 2 * g.ticks)]
  | .spiMosi, .spi => [(g.level, 2 * g.ticks)]
  | .spiMosi, .spiCut => [(g.level, 2 * g.ticks)]
  | .spiSck, .spi => [(false, sckLow n g.ticks), (true, 2 * g.ticks - sckLow n g.ticks)]
  | .spiSck, .spiCut => [(false, sckCutLow n g.ticks), (true, 2 * g.ticks - sckCutLow n g.ticks)]
  | _, _ => [(false, 2 * g.ticks)]

/-- The trace of a pin over segments number `n` and on, as (level, half ticks). -/
def pinTraceFrom (p : Pin) : Nat → List Segment → List (Bool × Nat)
  | _, [] => []
  | n, g :: w => g.onPin p n ++ pinTraceFrom p (n + 1) w

/-- The trace of a pin (R250, R251). -/
def pinTrace (p : Pin) (w : List Segment) : List (Bool × Nat) := pinTraceFrom p 0 w

/-- The levels a pin takes from now to the next step: in TX those of the bit in progress, outside TX low (R250: "Outside TX every
output is driven low, including after reset"). -/
def State.pinLevels (p : Pin) (s : State) : List Bool :=
  match s.encState with
  | .tx => (pinTraceFrom p s.wire.length s.currentWave).map (·.1)
  | .idle => [false]

/-- The lengths of SPI_SCK's clock periods, in ticks: one per SPI bit, none outside SPI TX (R251). -/
def sckPeriods (w : List Segment) : List Nat := (w.filter fun g => decide (g.driver = .spi)).map (·.ticks)

/-- Adjacent segments of the same level merge (R248). -/
def mergeTrace : List (Bool × Nat) → List (Bool × Nat)
  | [] => []
  | (l, t) :: rest =>
    match mergeTrace rest with
    | [] => [(l, t)]
    | (l', t') :: more => if l = l' then (l, t + t') :: more else (l, t) :: (l', t') :: more

/-- The wire trace as the spec writes it: `(level, ticks)` segments (00_scope.md R10), merged (R248). -/
def wireTrace (w : List Segment) : List (Bool × Nat) := mergeTrace (w.map fun g => (g.level, g.ticks))

/-- The ticks of a list of segments. -/
def totalTicks (w : List Segment) : Nat := (w.map (·.ticks)).sum

end Sys2Proof.Machine
end

