-- ==== Sys2Proof/Machine/Reset.lean ====
section
/-! DEFINITION. A reset between any two steps (70_reset_and_hazards.md R320 to R325). -/

namespace Sys2Proof.Machine

/-- The tag of a segment that a reset cut short. -/
def Driver.cutShort : Driver → Driver
  | .spi => .spiCut
  | .spiCut => .spiCut
  | .gpio => .gpio
  | .idle => .idle

/-- The first `c` ticks of a list of segments: the last of them is cut short. -/
def cutSegments : List Segment → Nat → List Segment
  | [], _ => []
  | g :: rest, c =>
    if c ≤ g.ticks then [{ g with driver := g.driver.cutShort, ticks := c }] else g :: cutSegments rest (c - g.ticks)

/-- What a reset adds to the wire trace (R324): nothing outside TX (the line is low already); in TX the bit in progress up to
a drawn point of it, then low for a drawn length (log entry 7). -/
def State.resetWave (s : State) : List Segment :=
  if s.gpioStepEnabled || s.spiStepEnabled then
    cutSegments s.currentWave (Config.draw s.draws % (totalTicks s.currentWave + 1)) ++
      [{ driver := .idle, level := false, ticks := Config.draw (s.draws + 1) }]
  else []

/-- An assertion of RST_N (R320): every item of R321 and R322 takes its reset value at once, the RAMs take new draws
(R323), a held write is discarded (R324). The parameters, the host's accesses, the interleaving and the
observations are not the block's to reset (log entries 1, 4, 5, 6). -/
def State.applyReset (s : State) : State :=
  { State.reset with
    params := s.params
    ramEpoch := s.draws
    draws := s.draws + 2
    prog := s.prog
    sched := s.sched
    passed := s.passed
    picks := s.picks
    reads := s.reads
    wire := s.wire ++ s.resetWave }

end Sys2Proof.Machine
end

