-- ==== Sys2Proof/Machine/Schedule.lean ====
section
/-! DEFINITION. The agents' turns (00_scope.md R9, 20_memory.md R81, 40_command_unit.md R132, R133): which agent moves next,
and what its move is. -/

namespace Sys2Proof.Machine

/-- The host has a step: its next access when HELD is empty, or the completion of a held write whose condition holds
(R132). While a blocking SHOW waits for its frame the host has no step (R133). -/
def State.hostEnabled (s : State) : Bool :=
  match s.held with
  | .empty => !s.prog.isEmpty
  | .waitingShow => s.showReady || !decide (s.cfgst = .configured)
  | .waitingCfg => s.cfgReady
  | .blockingShow => false

/-- Both agents have a step. -/
def State.bothEnabled (s : State) : Bool := s.hostEnabled && s.encoderEnabled

/-- Whose turn is next: the schedule's next turn; where the schedule has ended, an agent that has a step. Where both have one the
host moves while the encoder's patience lasts, a free number of steps: any interleaving in which the encoder is weakly fair, and no
other (R81, 43_encoder.md R240, log entry 5). -/
def State.nextTurn (s : State) : Turn :=
  match s.sched with
  | t :: _ => t
  | [] =>
    if s.bothEnabled then (if s.passed < Config.patience s.picks then .host else .encoder)
    else if s.hostEnabled then .host
    else .encoder

/-- The turn is used up: the schedule moves on; where it has ended and both agents have a step, the host's step is counted, or the
encoder's next wait begins. -/
def State.takeTurn (s : State) : State :=
  match s.sched with
  | _ :: rest => { s with sched := rest }
  | [] =>
    if s.bothEnabled then
      if s.passed < Config.patience s.picks then { s with passed := s.passed + 1 }
      else { s with passed := 0, picks := s.picks + 1 }
    else s

/-- HELD is not empty and no agent but reset can lift the hold (93_implementation_defined.md U14). -/
def State.stuck (s : State) : Bool := decide (s.held ≠ .empty) && !s.hostEnabled && !s.encoderEnabled

/-- One round of WAITIDLE, with `rest` after it (30_encoding.md R120): STATUS is read, and the loop stays at the head of the host's
program while the value read has bit 0 (BUSY) set. -/
def pollStatus (rest : List HostOp) (s : State) : Host.Outcome State Fault Refusal :=
  hostAccess statusRead (if s.status.getLsbD 0 then s else { s with prog := rest })

/-- The host's move: its next access, a round of its loop, or the held command presented again. A held command "is not accepted, and the host's
write does not complete, until its condition holds" (R132): presented too early it is held again and nothing changes. -/
def hostMove (s : State) : Host.Outcome State Fault Refusal :=
  match s.held with
  | .empty =>
    match s.prog with
    | [] => .next s
    | .access a :: rest => hostAccess a { s with prog := rest }
    | .waitIdle :: rest => pollStatus rest s
  | .waitingShow => exec .showFrame { s with held := .empty }
  | .waitingCfg => exec .cfg { s with held := .empty }
  | .blockingShow => .next s

/-- One turn. An agent with no enabled step leaves the state alone. -/
def runTurn (t : Turn) (s : State) : Host.Outcome State Fault Refusal :=
  match t with
  | .reset => .next s.applyReset
  | .encoder => if s.stuck then .fault .heldForever else .next s.encoderStep
  | .host => if s.stuck then .fault .heldForever else hostMove s

/-- The host program with the CMD write of `w` as its next access, the next turn the host's, and no write held. -/
def State.presentCommand (s : State) (w : Word) : State :=
  { s with prog := .access (cmdWrite w) :: s.prog, sched := .host :: s.sched, held := .empty }

end Sys2Proof.Machine
end

