-- ==== Sys2Proof/Machine/Step.lean ====
section
/-! DEFINITION. One step of the machine: one turn of one agent (00_scope.md R9, 20_memory.md R81). -/

namespace Sys2Proof.Machine

/-- One step. A build that breaks R7 or R8 is not admitted (93_implementation_defined.md U12). -/
def step (s : State) : Host.Outcome State Fault Refusal :=
  if s.params.legal then runTurn s.nextTurn s.takeTurn else .refused .illegalBuild

/-- `s` with the command word of bits `w` as the host's next CMD write, its turn next: the next step fetches and runs
exactly it (log entry 4). -/
def State.withFetchWord (s : State) (nbits w : Nat) : State := s.presentCommand (BitVec.ofNat 32 (w % 2 ^ nbits))

end Sys2Proof.Machine
end

