-- ==== Sys2Proof/Safety.lean ====
section
/-! DEFINITION. What counts as a good state and a good run, in the terms the statements use: the machine's invariant, the
reset-gap invariant (43_encoder.md R254), a run of the encoder alone, a run of the machine and its fairness (70_reset_and_hazards.md R339), the end of a
run and a recorded error (70_reset_and_hazards.md R342). -/

namespace Sys2Proof.Machine

/-- Every written RAM byte lies in the palette RAM or the pixel RAM (20_memory.md R71). -/
def State.RamMapped (s : State) : Prop :=
  ∀ c ∈ s.mem, (0x400 ≤ c.1 ∧ c.1 < 0x400 + 4 * s.params.palCap) ∨
    (0x1000 ≤ c.1 ∧ c.1 < 0x1000 + 4 * s.params.pixelCap)

/-- What holds of the ERR word (10_state.md R25, 60_exceptions.md R281, R283): reserved bits read 0, CODE is a code of
R281, nothing is recorded beside CODE = 0, and a bus error has OPC = 0. -/
structure ErrOk (e : Word) : Prop where
  reserved : e &&& 0xFE00FE00#32 = 0#32
  code : (errCode e).toNat ≤ 0x0A
  empty : errCode e = 0#8 → e = 0#32
  access : errAcc e = true → errCode e = 0x0A#8 ∧ errOpc e = 0#8

/-- What holds of a configuration in use (43_encoder.md R211 to R215): it passes CFG's checks, and XLEN is its size. -/
structure ConfiguredOk (s : State) : Prop where
  passes : cfgCheck s.params s.config s.npix = none
  xlen : s.xlen = if isSpi s.config then spiLength s.params (cfgProto s.config) s.npix.toNat else 0

/-- What holds while a frame is in TX (10_state.md R41, R42, R44, 43_encoder.md R218). -/
structure TxOk (s : State) : Prop where
  configured : s.cfgst = .configured
  config : s.snap.config = s.config
  npix : s.snap.npix = s.npix
  pixels : s.snap.pixels.length = s.npix.toNat
  seq : s.seq < s.seqEnd
  xbuf : isSpi s.snap.config = true → s.xbuf = xbufOf s.params s.snap

/-- The machine's invariant. -/
structure State.Inv (s : State) : Prop where
  /-- The build is admitted (00_scope.md R8). -/
  legal : s.params.legal = true
  /-- Memory is in its canonical form. -/
  memWf : s.mem.wf
  memMapped : s.RamMapped
  err : ErrOk s.err
  /-- IRQ_STAT[31:1] read 0 (10_state.md R30). -/
  irqStat : s.irqStat &&& 0xFFFFFFFE#32 = 0#32
  /-- IRQ_EN[31:2] read 0 (10_state.md R31). -/
  irqEn : s.irqEn &&& 0xFFFFFFFC#32 = 0#32
  /-- CONFIG's reserved bits read 0 (10_state.md R27). -/
  config : cfgAccepted s.config = s.config
  /-- NPIX never exceeds PIXEL_CAP (10_state.md R28). -/
  npix : s.npix.toNat ≤ s.params.pixelCap
  /-- PALN never exceeds PAL_CAP (10_state.md R29). -/
  paln : s.paln.toNat ≤ s.params.palCap
  configured : s.cfgst = .configured → ConfiguredOk s
  tx : s.encState = .tx → TxOk s
  /-- A SHOW is held only when CONFIGURED (40_command_unit.md R132). -/
  heldShow : s.held = .waitingShow → s.cfgst = .configured
  /-- A blocking SHOW is held exactly while a frame with ASYNC = 0 is in TX (40_command_unit.md R133). -/
  blocking : s.held = .blockingShow ↔ (s.encState = .tx ∧ cfgAsync s.snap.config = false)

/-- The low ticks at the end of a list of segments, latest segment first. -/
def leadingLow : List Segment → Nat
  | [] => 0
  | g :: rest => if g.level then 0 else g.ticks + leadingLow rest

/-- The low ticks at the end of the wire trace. -/
def trailingLow (w : List Segment) : Nat := leadingLow w.reverse

/-- The reset-gap invariant behind 43_encoder.md R254: with GAP_OK = 1 outside TX the line has been low for at least
RESET_TICKS, and an SPI frame in its trailing padding has been low for all the padding sent. -/
structure State.GapInv (s : State) : Prop where
  idle : s.encState = .idle → s.gapOk = true → s.params.resetTicks ≤ trailingLow s.wire
  padding : s.encState = .tx → isSpi s.snap.config = true →
    (s.seq - 8 * (s.xlen - (s.snap.timing s.params).padb)) * (s.snap.timing s.params).subbit ≤ trailingLow s.wire

/-- `n` steps of the encoder alone. -/
def State.encoderRun : Nat → State → State
  | 0, s => s
  | n + 1, s => State.encoderRun n s.encoderStep

/-- A run: from each state the machine steps to the next. -/
def IsRun (r : Nat → State) : Prop := ∀ n, step (r n) = .next (r (n + 1))

/-- Weak fairness of the encoder (20_memory.md R81, 43_encoder.md R240, R339): an enabled encoder step is eventually taken. From any
moment on there is one at which the encoder has no step or the turn is its. -/
def FairToEncoder (r : Nat → State) : Prop :=
  ∀ n, ∃ m, n ≤ m ∧ ((r m).encoderEnabled = false ∨ (r m).nextTurn = .encoder)

/-- The end of a run (R342): the host has no further access, HELD is empty, ENC_STATE = IDLE and no encoder step is enabled.
DESIGN CHOICE (log entry 5): no turn may be left in `sched` either, so that a reset still to come keeps the run from having ended; R342
names no such condition. -/
def State.Quiescent (s : State) : Prop :=
  s.prog = [] ∧ s.sched = [] ∧ s.held = .empty ∧ s.encState = .idle ∧ s.gapOk = true

/-- A run that ends in `s` has recorded an error (R342). -/
def State.RecordedError (s : State) : Prop := errCode s.err ≠ 0#8

end Sys2Proof.Machine
end

