-- ==== Sys2Proof/Certificates/Slice0/Obligations.lean ====
section
/-! DEFINITION. The statements for the provers, from the numbered rules of spec/, and the small functions over natural
numbers that they state the rules with, written from the rules and not from the model. -/

open Sys2Proof Sys2Proof.Machine

namespace Sys2Proof.Spec

/-! ### The rules' own functions, over natural numbers -/

/-- A CMD write of a word whose bits 7:0 are `opc` runs the command `i`, whatever CMD[31:8] hold (R100, R105, R130). -/
def Issued (opc : Nat) (i : Instr) : Prop := ∀ (w : Word) (s : State), w.toNat % 256 = opc → issue w s = exec i s

/-- The sector table of R145. -/
def sectorLanes (h c x : Nat) : Nat × Nat × Nat :=
  match h / 60 with
  | 0 => (c, x, 0)
  | 1 => (x, c, 0)
  | 2 => (0, c, x)
  | 3 => (0, x, c)
  | 4 => (x, 0, c)
  | _ => (c, 0, x)

/-- X of R145 and R148. -/
def secondLane (h c : Nat) : Nat := c * (if h / 60 % 2 = 0 then h % 60 else 60 - h % 60) / 60

/-- `{0, r1 + m, g1 + m, b1 + m}` as one number: equal to a colour word only if no lane overflows. -/
def colourNumber (h c m : Nat) : Nat :=
  ((sectorLanes h c (secondLane h c)).1 + m) * 65536 + ((sectorLanes h c (secondLane h c)).2.1 + m) * 256 +
    ((sectorLanes h c (secondLane h c)).2.2 + m)

/-- `hsv2rgb` of R145 as a number. -/
def hsvNumber (h s v : Nat) : Nat := colourNumber h (v * s / 255) (v - v * s / 255)

/-- C of R148. -/
def hslChromaNat (s l : Nat) : Nat := (255 - (if 2 * l ≤ 255 then 255 - 2 * l else 2 * l - 255)) * s / 255

/-- `hsl2rgb` of R148 as a number. -/
def hslNumber (h s l : Nat) : Nat := colourNumber h (hslChromaNat s l) (l - hslChromaNat s l / 2)

/-- R(c), G(c), B(c) and W(c) of a colour word as numbers (R14). -/
def red (c : Word) : Nat := c.toNat / 65536 % 256
/-- G(c) (R14). -/
def green (c : Word) : Nat := c.toNat / 256 % 256
/-- B(c) (R14). -/
def blue (c : Word) : Nat := c.toNat % 256
/-- W(c) (R14). -/
def white (c : Word) : Nat := c.toNat / 16777216

/-- The four lanes of a colour word (R14). -/
def lanes : List (Word → Nat) := [white, red, green, blue]

/-- M, the maximum of R151, which is V. -/
def maxLane (c : Word) : Nat := max (red c) (max (green c) (blue c))

/-- d of R151. -/
def spread (c : Word) : Nat := maxLane c - min (red c) (min (green c) (blue c))

/-- S of R151. -/
def satOf (c : Word) : Nat := if maxLane c = 0 then 0 else 255 * spread c / maxLane c

/-- H of R151; no numerator is negative. -/
def hueOf (c : Word) : Nat :=
  if spread c = 0 then 0
  else if maxLane c = red c then (60 * green c + 360 * spread c - 60 * blue c) / spread c % 360
  else if maxLane c = green c then (60 * blue c + 120 * spread c - 60 * red c) / spread c
  else (60 * red c + 240 * spread c - 60 * green c) / spread c

/-- The low byte of a register. -/
def lowByte (w : Word) : Nat := w.toNat % 256

/-- `k(v16)` of R153 on ARG2[15:0]: negative values clamp to 0, values above 1 to 256. -/
def fractionOf (w : Word) : Nat :=
  if 32768 ≤ w.toNat % 65536 then 0 else if 256 < w.toNat % 65536 then 256 else w.toNat % 65536

/-- `hueD(v16)` of R143 on ARG0[15:0]. -/
def degreesOf (w : Word) : Nat :=
  if w.toNat % 65536 < 32768 then w.toNat % 65536 % 360 else (w.toNat % 65536 + 360 * 183 - 65536) % 360

/-- `hueF(v16)` of R144 on ARG0[15:0]. -/
def turnOf (w : Word) : Nat := w.toNat % 65536 * 360 / 65536

/-- `res` holds, in each lane, the blend of R154 of `a` and `b` at `k`. -/
def Blended (a b : Word) (k : Nat) (res : Word) : Prop :=
  ∀ l ∈ lanes, l res = (l a * (256 - k) + l b * k + 128) / 256

/-- The byte positions of a descriptor (R113): oR, oG, oB, oW. -/
def oR (o : Byte) : Nat := o.toNat / 16 % 4
/-- oG (R113). -/
def oG (o : Byte) : Nat := o.toNat / 4 % 4
/-- oB (R113). -/
def oB (o : Byte) : Nat := o.toNat % 4
/-- oW (R113). -/
def oW (o : Byte) : Nat := o.toNat / 64

/-- `order_ok` of R213: the positions are a permutation of the slots. -/
abbrev OrderOk (o : Byte) (p32 : Bool) : Prop :=
  if p32 then [oR o, oG o, oB o, oW o].Perm [0, 1, 2, 3] else [oR o, oG o, oB o].Perm [0, 1, 2]

/-- The channels of a protocol with their positions in a pixel's bytes (R113, R230). -/
def channelsOf (o : Byte) (p32 : Bool) : List ((Word → Nat) × Nat) :=
  if p32 then [(red, oR o), (green, oG o), (blue, oB o), (white, oW o)] else [(red, oR o), (green, oG o), (blue, oB o)]

/-- The protocol of a configuration word is P32. -/
def isP32 (w : Word) : Bool := decide (w.toNat % 4 = 1)

/-- C (R214): 3 under P24, 4 under P32. -/
def chan (p32 : Bool) : Nat := if p32 then 4 else 3

/-- The timing of a protocol. -/
def timing (p : Params) (p32 : Bool) : Timing := if p32 then p.p32 else p.p24

/-- The first pair whose condition holds names the error (R212). -/
def firstError : List (Bool × ErrCode) → Option ErrCode
  | [] => none
  | (c, e) :: rest => if c then some e else firstError rest

/-- The checks of CFG in the order of R211 on CFGW `w` and pixel count `n`. -/
def cfgErrors (p : Params) (w : Word) (n : Nat) : Option ErrCode :=
  let strat := w.toNat / 4 % 4
  let proto := w.toNat % 4
  firstError
    [(decide (1 < strat), .badStrategy),
     (decide (strat = 0) && !p.hasGpio || decide (strat = 1) && !p.hasSpi, .strategyUnavailable),
     (decide (1 < proto) ||
        !(if strat = 0 then (if proto = 0 then p.supGpioP24 else p.supGpioP32)
          else (if proto = 0 then p.supSpiP24 else p.supSpiP32)), .unsupportedProtocol),
     (!decide (OrderOk (w.extractLsb' 8 8) (isP32 w)), .invalidOrder),
     (decide (n = 0) || decide (p.pixelCap < n), .invalidNpix),
     (decide (strat = 1) && decide (p.spiBufBytes < n * chan (isP32 w) * 3 + 2 * (timing p (isP32 w)).padb), .allocFail)]

/-- The accepted CONFIG as a number: PROTO, STRAT, ASYNC and ORDER in place, reserved bits 0 (R211, R112). -/
def acceptedConfig (w : Word) : Nat := w.toNat % 32 + w.toNat / 256 % 256 * 256

/-- A mapped word offset of R71. -/
def Mapped (p : Params) (off : Nat) : Prop :=
  off ≤ 0x040 ∨ (0x400 ≤ off ∧ off < 0x400 + 4 * p.palCap) ∨ (0x1000 ≤ off ∧ off < 0x1000 + 4 * p.pixelCap)

/-- An offset of a RAM word (R37, R38). -/
def RamOff (p : Params) (off : Nat) : Prop :=
  off % 4 = 0 ∧ ((0x400 ≤ off ∧ off < 0x400 + 4 * p.palCap) ∨ (0x1000 ≤ off ∧ off < 0x1000 + 4 * p.pixelCap))

/-- The offsets of the RO registers (R75). -/
def roOffsets : List Nat := [0x000, 0x004, 0x01C, 0x020, 0x024, 0x028, 0x034, 0x038, 0x03C, 0x040]

/-- The GPIO waveform of a data bit (R246). -/
def gpioWave (t : Timing) (b : Bool) : List Segment :=
  if b then [⟨.gpio, true, t.t1h⟩, ⟨.gpio, false, t.tbit - t.t1h⟩] else [⟨.gpio, true, t.t0h⟩, ⟨.gpio, false, t.tbit - t.t0h⟩]

/-- The state after `frame_end()` of R244 for a frame of the given strategy. -/
def afterFrame (s : State) (spi : Bool) : State :=
  { s with
    encState := .idle
    frames := BitVec.ofNat 32 (s.frames.toNat + 1)
    irqStat := s.irqStat ||| 1#32
    gapOk := spi
    held := if s.held = .blockingShow then .empty else s.held }

end Sys2Proof.Spec

open Sys2Proof.Spec

/-! ### Decoding and issue -/

/-- R102, R105: a few command words written out from the opcode map, one per unit and with ignored bits set. -/
def Obligations.WordsFromTheOpcodeMapDecode : Prop :=
  decode 0x00000000#32 = .ok .nop ∧ decode 0x00000010#32 = .ok .cpk24 ∧ decode 0xFFFFFF16#32 = .ok .lerp ∧
    decode 0x00000023#32 = .ok .prand ∧ decode 0x00000031#32 = .ok .showFrame ∧ decode 0xABCDEF35#32 = .ok .enc3 ∧
    decode 0x00000101#32 = .error (.reservedOpcode 0x01#8)

/-- R105 and R101: decoding looks at CMD[7:0] alone and finds the command whose opcode that is; encoding then gives back
every bit of the word, the ignored ones included. -/
def Obligations.DecodeAndEncodeAgree : Prop :=
  (∀ (i : Instr) (ign : BitVec 24), decode (encodeWith ign i) = .ok i) ∧
    (∀ (w : Word) (i : Instr), decode w = .ok i → encodeWith (w.extractLsb' 8 24) i = w)

/-- R103: exactly the opcodes it lists are reserved, and a CMD write of one records ILLEGAL_CMD(OPC) and does nothing else. -/
def Obligations.ReservedOpcodesRaiseIllegalCmd : Prop :=
  ∀ (w : Word) (s : State),
    let opc := w.toNat % 256
    ((0x01 ≤ opc ∧ opc ≤ 0x0F) ∨ (0x1B ≤ opc ∧ opc ≤ 0x1F) ∨ (0x24 ≤ opc ∧ opc ≤ 0x2F) ∨ (0x36 ≤ opc ∧ opc ≤ 0x3F) ∨
        0x40 ≤ opc →
      issue w s = .next { s with err := errRecord s.err .illegalCmd (BitVec.ofNat 8 opc) false }) ∧
    (¬((0x01 ≤ opc ∧ opc ≤ 0x0F) ∨ (0x1B ≤ opc ∧ opc ≤ 0x1F) ∨ (0x24 ≤ opc ∧ opc ≤ 0x2F) ∨ (0x36 ≤ opc ∧ opc ≤ 0x3F) ∨
        0x40 ≤ opc) →
      ∃ i, decode w = .ok i ∧ issue w s = exec i s)

/-- R130, R72, R120, R240, R320: in an admitted build a step is the turn of the agent whose turn it is. On the host's turn with no
write held it is the host's next access, whatever that is, or a round of its WAITIDLE loop, which reads STATUS and goes on while bit
0 was 1; a CMD write issues its word, and a word that decodes runs its command. On the encoder's turn, unless a write is held for
ever, it is the encoder's step; on reset's turn it is a reset. The lists of accesses and turns are the model's form (log entries 4
and 5), and so is the name of the stuck state (log entry 12). -/
def Obligations.StepRunsTheDecodedCommand : Prop :=
  (∀ s : State, s.params.legal = true →
    (∀ (w : Word) (i : Instr) (rest : List HostOp), s.nextTurn = .host → s.held = .empty →
      s.prog = .access (cmdWrite w) :: rest → decode w = .ok i → step s = exec i { s.takeTurn with prog := rest }) ∧
    (∀ (a : Access) (rest : List HostOp), s.nextTurn = .host → s.held = .empty → s.prog = .access a :: rest →
      step s = hostAccess a { s.takeTurn with prog := rest }) ∧
    (∀ rest : List HostOp, s.nextTurn = .host → s.held = .empty → s.prog = .waitIdle :: rest →
      step s = .next { s.takeTurn with
        reads := s.reads ++ [s.status]
        prog := if s.status.getLsbD 0 then s.prog else rest }) ∧
    (s.nextTurn = .encoder → s.stuck = false → step s = .next s.takeTurn.encoderStep) ∧
    (s.nextTurn = .reset → step s = .next s.takeTurn.applyReset)) ∧
  (∀ (w : Word) (s : State), hostAccess (cmdWrite w) s = issue w s) ∧
  (∀ (w : Word) (i : Instr) (s : State), decode w = .ok i → issue w s = exec i s)

/-- R132: on the host's turn a held SHOW or CFG is presented again; while its condition does not hold nothing changes but
the turn, and when it holds the command runs against the state of that moment. That the held command is presented again on the host's
turn is the model's form (log entry 10). R133: while an accepted blocking SHOW waits for its frame the host takes no step; a turn of
the host's that comes all the same changes nothing but the turn (log entry 5). -/
def Obligations.HeldCommandWaitsForItsCondition : Prop :=
  ∀ (s : State), s.params.legal = true → s.nextTurn = .host → s.stuck = false →
    (s.held = .waitingShow → s.cfgst = .configured →
      ¬(s.encState = .idle ∧ (isSpi s.config = true ∨ s.gapOk = true)) → step s = .next s.takeTurn) ∧
    (s.held = .waitingCfg → s.encState = .tx → step s = .next s.takeTurn) ∧
    (s.held = .waitingShow → s.cfgst = .configured → s.encState = .idle → (isSpi s.config = true ∨ s.gapOk = true) →
      step s = exec .showFrame { s.takeTurn with held := .empty }) ∧
    (s.held = .waitingCfg → s.encState = .idle → step s = exec .cfg { s.takeTurn with held := .empty }) ∧
    (s.held = .blockingShow → step s = .next s.takeTurn)

/-! ### Control and colour unit -/

/-- R136. -/
def Obligations.NopChangesNothing : Prop := Issued 0x00 .nop ∧ ∀ s : State, exec .nop s = .next s

/-- R142. -/
def Obligations.Cpk24ZeroesWhite : Prop :=
  Issued 0x10 .cpk24 ∧
    ∀ s : State, exec .cpk24 s = .next { s with res := BitVec.ofNat 32 (s.arg0.toNat % 16777216) }

/-- R146, R147, with R143 to R145: the result as one number, which no lane overflows; nothing else changes. -/
def Obligations.HsvCommandsBuildTheSectorColour : Prop :=
  Issued 0x11 .hsvd ∧ Issued 0x12 .hsvf ∧
    ∀ s : State,
      exec .hsvd s =
        .next { s with res := BitVec.ofNat 32 (hsvNumber (degreesOf s.arg0) (lowByte s.arg1) (lowByte s.arg2)) } ∧
      exec .hsvf s =
        .next { s with res := BitVec.ofNat 32 (hsvNumber (turnOf s.arg0) (lowByte s.arg1) (lowByte s.arg2)) }

/-- R149, R150, with R148. -/
def Obligations.HslCommandsBuildThePiecewiseColour : Prop :=
  Issued 0x13 .hsld ∧ Issued 0x14 .hslf ∧
    ∀ s : State,
      exec .hsld s =
        .next { s with res := BitVec.ofNat 32 (hslNumber (degreesOf s.arg0) (lowByte s.arg1) (lowByte s.arg2)) } ∧
      exec .hslf s =
        .next { s with res := BitVec.ofNat 32 (hslNumber (turnOf s.arg0) (lowByte s.arg1) (lowByte s.arg2)) }

/-- R152, with R151 and R114. -/
def Obligations.TohsvPacksValueSaturationHue : Prop :=
  Issued 0x15 .tohsv ∧
    ∀ s : State, hueOf s.arg0 < 360 ∧ satOf s.arg0 < 256 ∧
      exec .tohsv s =
        .next { s with res := BitVec.ofNat 32 (maxLane s.arg0 * 16777216 + satOf s.arg0 * 65536 + hueOf s.arg0) }

/-- R155, R156, with R153 and R154. -/
def Obligations.LerpAndRlerpBlendEveryLane : Prop :=
  Issued 0x16 .lerp ∧ Issued 0x17 .rlerp ∧
    ∀ s : State,
      (∃ v, exec .lerp s = .next { s with res := v } ∧ Blended s.arg0 s.arg1 (fractionOf s.arg2) v) ∧
      (∃ v, exec .rlerp s = .next { s with res := v } ∧ Blended s.arg0 s.arg1 (256 - fractionOf s.arg2) v)

/-- R157: every lane is the rounded-down product, which never exceeds 255. -/
def Obligations.ScaleRoundsEveryLaneDown : Prop :=
  Issued 0x18 .scale ∧
    ∀ s : State, ∃ v, exec .scale s = .next { s with res := v } ∧
      ∀ l ∈ lanes, l v = min 255 (l s.arg0 * fractionOf s.arg2 / 256) ∧ l s.arg0 * fractionOf s.arg2 / 256 ≤ 255

/-- R158: the hue and value of the colour, the new saturation, and the old white lane. -/
def Obligations.SatReplacesTheSaturation : Prop :=
  Issued 0x19 .sat ∧
    ∀ s : State,
      let v := white s.arg0 * 16777216 + hsvNumber (hueOf s.arg0) (lowByte s.arg1) (maxLane s.arg0)
      exec .sat s = .next { s with res := BitVec.ofNat 32 v }

/-- R159, R116: all 32 bits are compared. -/
def Obligations.CeqComparesWholeWords : Prop :=
  Issued 0x1A .ceq ∧
    ∀ s : State, (s.arg0 = s.arg1 → exec .ceq s = .next { s with res := 0x00000001#32 }) ∧
      (s.arg0 ≠ s.arg1 → exec .ceq s = .next { s with res := 0x00000000#32 })

/-- R160: the endpoints of LERP, its symmetry with RLERP, and the bounds of SCALE, for all colour words and operands. -/
def Obligations.BlendAndScaleLaws : Prop :=
  ∀ s : State,
    (s.arg2.toNat % 65536 = 0x0000 → exec .lerp s = .next { s with res := s.arg0 }) ∧
    (s.arg2.toNat % 65536 = 0x0100 → exec .lerp s = .next { s with res := s.arg1 }) ∧
    (∀ t t' : State, exec .lerp s = .next t → exec .rlerp { s with arg0 := s.arg1, arg1 := s.arg0 } = .next t' →
      t'.res = t.res) ∧
    (∀ t : State, exec .scale s = .next t → ∀ l ∈ lanes, l t.res ≤ l s.arg0) ∧
    (s.arg2.toNat % 65536 = 0x0000 → exec .scale s = .next { s with res := 0x00000000#32 }) ∧
    (s.arg2.toNat % 65536 = 0x0100 → exec .scale s = .next { s with res := s.arg0 })

/-- R161: the constructors give W = 0, SAT keeps the input's W, and every other lane lies in [0, V] for HSV. -/
def Obligations.ConstructedColoursHaveNoWhite : Prop :=
  ∀ s t : State,
    (∀ i ∈ [Instr.hsvd, .hsvf, .hsld, .hslf], exec i s = .next t → white t.res = 0) ∧
    (exec .sat s = .next t → white t.res = white s.arg0) ∧
    (∀ i ∈ [Instr.hsvd, .hsvf], exec i s = .next t → ∀ l ∈ lanes, l t.res ≤ lowByte s.arg2)

/-- R162: the value is always recovered, and the hue to within one degree when the chroma is at least 54. -/
def Obligations.HsvRoundTripRecoversTheHue : Prop :=
  ∀ h s v : Nat, h < 360 → s < 256 → v < 256 →
    let c : Word := hsv2rgb h s v
    (rgb2hsv c).v = v ∧
      (54 ≤ v * s / 255 → min (((h : Int) - (rgb2hsv c).h) % 360) (((rgb2hsv c).h - (h : Int)) % 360) ≤ 1)

/-! ### Palette sampler -/

/-- R191. -/
def Obligations.PsetnSetsALegalCount : Prop :=
  Issued 0x20 .psetn ∧
    ∀ s : State,
      (1 ≤ s.arg0.toNat → s.arg0.toNat ≤ s.params.palCap → exec .psetn s = .next { s with paln := s.arg0 }) ∧
      (s.arg0.toNat = 0 ∨ s.params.palCap < s.arg0.toNat →
        exec .psetn s = .next { s with err := errRecord s.err .invalidPalette 0x20#8 false })

/-- R193, with R192: the Euclidean remainder of the signed index. -/
def Obligations.PgetiWrapsTheIndex : Prop :=
  Issued 0x21 .pgeti ∧
    ∀ s : State,
      (s.paln.toNat = 0 → exec .pgeti s = .next { s with err := errRecord s.err .invalidPalette 0x21#8 false }) ∧
      (∀ r : Nat, r < s.paln.toNat → (s.paln.toNat : Int) ∣ (s.arg0.toInt - r) →
        exec .pgeti s = .next { s with res := s.pal r })

/-- R195, with R192, R194 and R154: the blend of the two neighbouring entries at the fraction. -/
def Obligations.PgetfBlendsNeighbours : Prop :=
  Issued 0x22 .pgetf ∧
    ∀ s : State,
      (s.paln.toNat = 0 → exec .pgetf s = .next { s with err := errRecord s.err .invalidPalette 0x22#8 false }) ∧
      (∀ (ip : Int) (fr ra rb : Nat), s.arg0.toInt = 256 * ip + fr → fr < 256 →
        ra < s.paln.toNat → rb < s.paln.toNat → (s.paln.toNat : Int) ∣ (ip - ra) → (s.paln.toNat : Int) ∣ (ip + 1 - rb) →
        ∃ v, exec .pgetf s = .next { s with res := v } ∧ Blended (s.pal ra) (s.pal rb) fr v)

/-- R196: some entry of the active palette; the draw that chose it is used up (the counter of draws is the model's, log
entry 3). -/
def Obligations.PrandPicksAnActiveEntry : Prop :=
  Issued 0x23 .prand ∧
    ∀ s : State,
      (s.paln.toNat = 0 → exec .prand s = .next { s with err := errRecord s.err .invalidPalette 0x23#8 false }) ∧
      (1 ≤ s.paln.toNat →
        ∃ r, r < s.paln.toNat ∧ exec .prand s = .next { s with res := s.pal r, draws := s.draws + 1 })

/-- R197: PGETI and PGETF are periodic in the palette count. -/
def Obligations.PaletteLookupIsPeriodic : Prop :=
  ∀ (s t t' : State) (x : Word), 1 ≤ s.paln.toNat →
    (x.toInt = s.arg0.toInt + s.paln.toNat → exec .pgeti s = .next t → exec .pgeti { s with arg0 := x } = .next t' →
      t'.res = t.res) ∧
    (x.toInt = s.arg0.toInt + 256 * s.paln.toNat → exec .pgetf s = .next t →
      exec .pgetf { s with arg0 := x } = .next t' → t'.res = t.res)

/-! ### Encoder commands -/

/-- R211, R212, R213: CFG waits for IDLE; then the first failing check sets CFGST = FAILED and is recorded, and otherwise
CONFIG, NPIX, XLEN and CFGST are set. Nothing else changes. -/
def Obligations.CfgChecksInOrderThenConfigures : Prop :=
  Issued 0x30 .cfg ∧
    ∀ s : State,
      (s.encState = .tx → exec .cfg s = .next { s with held := .waitingCfg }) ∧
      (∀ e, s.encState = .idle → cfgErrors s.params s.arg0 s.arg1.toNat = some e →
        exec .cfg s = .next { s with cfgst := .failed, err := errRecord s.err e 0x30#8 false }) ∧
      (s.encState = .idle → cfgErrors s.params s.arg0 s.arg1.toNat = none →
        exec .cfg s =
          .next
            { s with
              config := BitVec.ofNat 32 (acceptedConfig s.arg0)
              npix := s.arg1
              xlen := if s.arg0.toNat / 4 % 4 = 1 then
                  s.arg1.toNat * chan (isP32 s.arg0) * 3 + 2 * (timing s.params (isP32 s.arg0)).padb
                else 0
              cfgst := .configured })

/-- R217, R218: SHOW is refused at once when not configured, held while a frame runs or the gap has not elapsed, and
otherwise takes the snapshot, fills XBUF under SPI, emits the idle low and starts TX; a blocking SHOW stays in HELD. The counter
of draws is the model's (log entry 3). -/
def Obligations.ShowIsRefusedHeldOrAccepted : Prop :=
  Issued 0x31 .showFrame ∧
    ∀ s : State,
      (s.cfgst ≠ .configured →
        exec .showFrame s = .next { s with err := errRecord s.err .notConfigured 0x31#8 false }) ∧
      (s.cfgst = .configured → ¬(s.encState = .idle ∧ (isSpi s.config = true ∨ s.gapOk = true)) →
        exec .showFrame s = .next { s with held := .waitingShow }) ∧
      (s.cfgst = .configured → s.encState = .idle → (isSpi s.config = true ∨ s.gapOk = true) →
        ∃ (idle : Nat) (snap : Snap), snap.config = s.config ∧ snap.npix = s.npix ∧
          snap.pixels.length = s.npix.toNat ∧ (∀ i, i < s.npix.toNat → snap.pixels.getD i 0#32 = s.pix i) ∧
          exec .showFrame s =
            .next
              { s with
                snap := snap
                xbuf := if isSpi s.config then xbufOf s.params snap else s.xbuf
                wire := s.wire ++ [⟨.idle, false, idle⟩]
                encState := .tx
                seq := 0
                draws := s.draws + 1
                held := if s.config.getLsbD 4 then .empty else .blockingShow })

/-- R24, R132: STATUS.BUSY says exactly whether a SHOW written now would be held, whatever CFGST is. -/
def Obligations.BusyMeansAShowWouldBeHeld : Prop :=
  ∀ s : State, s.Inv → s.held = .empty →
    (s.status.getLsbD 0 = true ↔ exec .showFrame s = .next { s with held := .waitingShow })

/-- R219: every active pixel takes ARG0; every other byte of RAM and every other part of the state is unchanged. -/
def Obligations.FillSetsEveryActivePixel : Prop :=
  Issued 0x32 .fill ∧
    ∀ s : State,
      (s.cfgst ≠ .configured → exec .fill s = .next { s with err := errRecord s.err .notConfigured 0x32#8 false }) ∧
      (s.cfgst = .configured →
        ∃ t, exec .fill s = .next t ∧ (∀ i, i < s.npix.toNat → t.pix i = s.arg0) ∧
          (∀ a, a < 0x1000 ∨ 0x1000 + 4 * s.npix.toNat ≤ a → t.ramByte a = s.ramByte a) ∧ { t with mem := s.mem } = s)

/-- R220: pixel i takes palette entry i mod PALN; NOT_CONFIGURED comes before INVALID_PALETTE. -/
def Obligations.PfillRepeatsThePalette : Prop :=
  Issued 0x33 .pfill ∧
    ∀ s : State,
      (s.cfgst ≠ .configured → exec .pfill s = .next { s with err := errRecord s.err .notConfigured 0x33#8 false }) ∧
      (s.cfgst = .configured → s.paln.toNat = 0 →
        exec .pfill s = .next { s with err := errRecord s.err .invalidPalette 0x33#8 false }) ∧
      (s.cfgst = .configured → 1 ≤ s.paln.toNat →
        ∃ t, exec .pfill s = .next t ∧ (∀ i, i < s.npix.toNat → t.pix i = s.pal (i % s.paln.toNat)) ∧
          (∀ a, a < 0x1000 ∨ 0x1000 + 4 * s.npix.toNat ≤ a → t.ramByte a = s.ramByte a) ∧ { t with mem := s.mem } = s)

/-- R221: the Euclidean remainder of the signed index; pixel RAM is read, not SNAP. -/
def Obligations.PixrReadsPixelRamWrapping : Prop :=
  Issued 0x34 .pixr ∧
    ∀ s : State,
      (s.cfgst ≠ .configured → exec .pixr s = .next { s with err := errRecord s.err .notConfigured 0x34#8 false }) ∧
      (s.cfgst = .configured → ∀ r : Nat, r < s.npix.toNat → (s.npix.toNat : Int) ∣ (s.arg0.toInt - r) →
        exec .pixr s = .next { s with res := s.pix r })

/-- R222, R223: bit i of the byte becomes the group `1, b, 0` at bits 3i+2 to 3i, bits 31:24 are 0, and 8 + popcount bits are
set. -/
def Obligations.Enc3ExpandsEveryBit : Prop :=
  Issued 0x35 .enc3 ∧
    ∀ s : State, ∃ v : Word, exec .enc3 s = .next { s with res := v } ∧ v.toNat < 16777216 ∧
      (∀ i, i < 8 → v.getLsbD (3 * i + 2) = true ∧ v.getLsbD (3 * i + 1) = s.arg0.getLsbD i ∧ v.getLsbD (3 * i) = false) ∧
      (List.range 32).countP (fun j => v.getLsbD j) = 8 + (List.range 8).countP (fun j => s.arg0.getLsbD j)

/-! ### Whole-machine rules about commands -/

/-- R135: a command that raises an error (it is seen to on a clear ERR) changes nothing but ERR, by R283's record under its
own opcode, but that a failing CFG also sets CFGST = FAILED; a command that raises none leaves ERR alone. -/
def Obligations.ErringCommandsChangeOnlyErr : Prop :=
  ∀ (i : Instr) (s t : State), exec i { s with err := 0x00000000#32 } = .next t →
    (t.err ≠ 0x00000000#32 →
      ∃ e : ErrCode, errCode t.err = e.code ∧
        exec i s = .next { s with
          err := errRecord s.err e (opcode i) false
          cfgst := if i = .cfg then .failed else s.cfgst }) ∧
    (t.err = 0x00000000#32 → ∃ t', exec i s = .next t' ∧ t'.err = s.err)

/-- R21, R22, R30, R31, R33, R47, R253: no command writes ARG0 to ARG2, and RES is written by the result-producing commands alone; no
command writes IRQ_STAT, IRQ_EN, FRAMES or GAP_OK. The parameters, what the host has still to do, the turns with their counters and the values read are
the model's own fields (log entries 1, 4, 5 and 6), and no command writes them either. -/
def Obligations.CommandsLeaveOperandsAndHostRegistersAlone : Prop :=
  ∀ (i : Instr) (s t : State), exec i s = .next t →
    t.arg0 = s.arg0 ∧ t.arg1 = s.arg1 ∧ t.arg2 = s.arg2 ∧ t.irqStat = s.irqStat ∧ t.irqEn = s.irqEn ∧
      t.frames = s.frames ∧ t.gapOk = s.gapOk ∧ t.params = s.params ∧ t.prog = s.prog ∧ t.sched = s.sched ∧
      t.passed = s.passed ∧ t.picks = s.picks ∧ t.reads = s.reads ∧
      (i ∈ [Instr.nop, .psetn, .cfg, .showFrame, .fill, .pfill] → t.res = s.res)

/-- R134: no command reads RES. Two states that differ in RES alone end in states that differ in RES at most, and there only
if the command writes no result. -/
def Obligations.NoCommandReadsRes : Prop :=
  ∀ (i : Instr) (s t t' : State) (v : Word), exec i s = .next t → exec i { s with res := v } = .next t' →
    { t' with res := t.res } = t ∧ (t'.res = t.res ∨ (t.res = s.res ∧ t'.res = v))

/-! ### The frame -/

/-- R232, with R79, R231 and R233: bit b (0 first) of the channel at position o of pixel p is frame bit 8*(p*C + o) + b, most
significant bit first. -/
def Obligations.FrameBitsFollowPixelSlotAndBitOrder : Prop :=
  ∀ (n : Snap), n.pixels.length = n.npix.toNat → n.config.toNat % 4 ≤ 1 →
    OrderOk (n.config.extractLsb' 8 8) (isP32 n.config) →
    frameBits n = n.npix.toNat * 8 * chan (isP32 n.config) ∧
      ∀ p, p < n.npix.toNat → ∀ ch ∈ channelsOf (n.config.extractLsb' 8 8) (isP32 n.config), ∀ b, b < 8 →
        frameBit n (8 * (p * chan (isP32 n.config) + ch.2) + b) = (ch.1 (n.pixels.getD p 0#32)).testBit (7 - b)

/-- R235: leading padding, the three bytes of each channel byte at its place, high byte first, trailing padding; the whole is
XLEN bytes long (R214). -/
def Obligations.XbufLayout : Prop :=
  ∀ (p : Params) (n : Snap), n.pixels.length = n.npix.toNat → n.config.toNat % 4 ≤ 1 →
    OrderOk (n.config.extractLsb' 8 8) (isP32 n.config) →
    let pad := (timing p (isP32 n.config)).padb
    let c := chan (isP32 n.config)
    (xbufOf p n).length = n.npix.toNat * c * 3 + 2 * pad ∧
      (∀ a, a < pad → (xbufOf p n).getD a 0xFF#8 = 0x00#8) ∧
      (∀ q, q < n.npix.toNat → ∀ ch ∈ channelsOf (n.config.extractLsb' 8 8) (isP32 n.config),
        let e := enc3 (BitVec.ofNat 8 (ch.1 (n.pixels.getD q 0#32)))
        let base := pad + 3 * (q * c + ch.2)
        (xbufOf p n).getD base 0#8 = e.extractLsb' 16 8 ∧ (xbufOf p n).getD (base + 1) 0#8 = e.extractLsb' 8 8 ∧
          (xbufOf p n).getD (base + 2) 0#8 = e.extractLsb' 0 8) ∧
      (∀ a, pad + 3 * (n.npix.toNat * c) ≤ a → a < n.npix.toNat * c * 3 + 2 * pad →
        (xbufOf p n).getD a 0xFF#8 = 0x00#8)

/-- R244: the end of a frame. -/
def Obligations.FrameEndEffects : Prop :=
  ∀ s : State, s.frameEnd = afterFrame s (decide (s.snap.config.toNat / 4 % 4 = 1))

/-- R242, R241: a GPIO bit step emits the bit's two pulses, in the timing of the protocol in SNAP, advances SEQ, and ends the frame after the last bit. -/
def Obligations.GpioBitStepEmitsOneBit : Prop :=
  ∀ s : State, s.encState = .tx → isGpio s.snap.config = true → s.seq < frameBits s.snap →
    let t : State := { s with
      wire := s.wire ++ gpioWave (timing s.params (isP32 s.snap.config)) (frameBit s.snap s.seq)
      seq := s.seq + 1 }
    s.encoderStep = if s.seq + 1 = frameBits s.snap then afterFrame t false else t

/-- R243, R241: an SPI bit step emits one SPI bit of XBUF, bit 7 of each byte first, in the timing of the protocol in SNAP, advances SEQ, and ends the frame after the
last bit. -/
def Obligations.SpiBitStepShiftsOneBit : Prop :=
  ∀ s : State, s.encState = .tx → isSpi s.snap.config = true → s.seq < 8 * s.xlen →
    let t : State := { s with
      wire := s.wire ++
        [⟨.spi, (s.xbuf.getD (s.seq / 8) 0#8).getLsbD (7 - s.seq % 8), (timing s.params (isP32 s.snap.config)).subbit⟩]
      seq := s.seq + 1 }
    s.encoderStep = if s.seq + 1 = 8 * s.xlen then afterFrame t true else t

/-- R240, R253: outside TX the encoder's one step is the gap-elapsed step, enabled exactly while GAP_OK = 0. R250: outside TX every
pin is low, and stays low through every step's segments; in TX the pins of the strategy not in use stay low, a reset included. The
numbering of segments and the half ticks of `pinTraceFrom` are the model's form (log entry 8). -/
def Obligations.GapStepIsTheOnlyIdleStep : Prop :=
  (∀ s : State, s.encState = .idle →
    (s.gapOk = false → s.encoderEnabled = true ∧
      s.encoderStep = { s with wire := s.wire ++ [⟨.idle, false, s.params.resetTicks⟩], gapOk := true }) ∧
    (s.gapOk = true → s.encoderEnabled = false ∧ s.encoderStep = s) ∧
    (∀ p : Pin, s.pinLevels p = [false])) ∧
  (∀ s t : State, step s = .next t → ∃ new, t.wire = s.wire ++ new ∧
    (s.encState = .idle → ∀ (p : Pin) (n : Nat), ∀ x ∈ pinTraceFrom p n new, x.1 = false) ∧
    (s.encState = .tx → isGpio s.snap.config = true → ∀ (p : Pin) (n : Nat), p ≠ .doutG →
      ∀ x ∈ pinTraceFrom p n new, x.1 = false) ∧
    (s.encState = .tx → isSpi s.snap.config = true → ∀ n : Nat, ∀ x ∈ pinTraceFrom .doutG n new, x.1 = false))

/-- R253, R244: GAP_OK rises only by the gap-elapsed step or at the end of an SPI frame. -/
def Obligations.GapOkRisesOnlyByGapOrSpiFrameEnd : Prop :=
  ∀ s t : State, step s = .next t → s.gapOk = false → t.gapOk = true →
    (s.encState = .idle ∧ t = s.takeTurn.gapStep) ∨
      (s.encState = .tx ∧ t.encState = .idle ∧ isSpi s.snap.config = true ∧ t.frames = s.frames + 1#32)

/-- R247, with R241, R242, R246 and R250: from TX start, FBITS encoder steps send a whole GPIO frame, exactly the bit waveforms of
frame bits 0 to FBITS-1 back to back in the timing of SNAP's protocol, lasting FBITS*TBIT ticks, and end it; DOUT_G carries those
waveforms and the two SPI pins stay low (`pinTraceFrom` counts half ticks, log entry 8). -/
def Obligations.GpioFrameWaveform : Prop :=
  ∀ s : State, s.Inv → s.encState = .tx → isGpio s.snap.config = true → s.seq = 0 →
    let t := timing s.params (isP32 s.snap.config)
    let wave := (List.range (frameBits s.snap)).flatMap fun k => gpioWave t (frameBit s.snap k)
    s.encoderRun (frameBits s.snap) =
        afterFrame { s with wire := s.wire ++ wave, seq := frameBits s.snap } false ∧
      totalTicks wave = frameBits s.snap * t.tbit ∧
      (∀ n, pinTraceFrom .doutG n wave = wave.map fun g => (g.level, 2 * g.ticks)) ∧
      (∀ (p : Pin) (n : Nat), p ≠ .doutG → ∀ x ∈ pinTraceFrom p n wave, x.1 = false)

/-- R236, with R235, R241, R243, R248, R250 and R251: from TX start, 8*XLEN encoder steps send a whole SPI frame: 8*PADB zero bits,
the group `1, b, 0` for each frame bit b in order, 8*PADB zero bits, each SUBBIT ticks long in the timing of SNAP's protocol, and end
it. SPI_MOSI carries those bits; SPI_SCK gives one period of SUBBIT ticks per bit, low first, rising strictly inside the bit and
falling at its end, where SPI_MOSI changes; DOUT_G stays low. Where in the bit the clock rises is free, and `pinTraceFrom` counts
half ticks (log entry 8). -/
def Obligations.SpiFrameStream : Prop :=
  ∀ s : State, s.Inv → s.encState = .tx → isSpi s.snap.config = true → s.seq = 0 →
    let t := timing s.params (isP32 s.snap.config)
    let bits := List.replicate (8 * t.padb) false ++
      ((List.range (frameBits s.snap)).flatMap fun k => [true, frameBit s.snap k, false]) ++
      List.replicate (8 * t.padb) false
    let wave : List Segment := bits.map fun b => ⟨.spi, b, t.subbit⟩
    s.encoderRun (8 * s.xlen) = afterFrame { s with wire := s.wire ++ wave, seq := 8 * s.xlen } true ∧
      totalTicks wave = 8 * s.xlen * t.subbit ∧ sckPeriods wave = List.replicate (8 * s.xlen) t.subbit ∧
      (∀ n, pinTraceFrom .spiMosi n wave = bits.map fun b => (b, 2 * t.subbit)) ∧
      (∀ n, ∃ low : Nat → Nat, (∀ j, 0 < low j ∧ low j < 2 * t.subbit) ∧
        pinTraceFrom .spiSck n wave =
          (List.range (8 * s.xlen)).flatMap fun j => [(false, low j), (true, 2 * t.subbit - low j)]) ∧
      (∀ n, ∀ x ∈ pinTraceFrom .doutG n wave, x.1 = false)

/-- R249, with R246 and R248: a GPIO frame and an SPI frame of the same bits, from states with the invariant at TX start, under
TBIT = 3*SUBBIT, T0H = SUBBIT and T1H = 2*SUBBIT. What the encoder appends for the GPIO frame and the data part of what it appends
for the SPI frame have the same wire trace, `(1, 2*SUBBIT)(0, SUBBIT)` for a 1 and `(1, SUBBIT)(0, 2*SUBBIT)` for a 0, adjacent
segments of one level merged; the SPI frame adds a low of 8*PADB*SUBBIT ticks at each end. -/
def Obligations.StrategiesSendTheSameDataWaveform : Prop :=
  ∀ s r : State, s.Inv → r.Inv → s.encState = .tx → r.encState = .tx → s.seq = 0 → r.seq = 0 →
    isGpio s.snap.config = true → isSpi r.snap.config = true →
    let t := timing s.params (isP32 s.snap.config)
    let u := timing r.params (isP32 r.snap.config)
    t.tbit = 3 * u.subbit → t.t0h = u.subbit → t.t1h = 2 * u.subbit →
    frameBits s.snap = frameBits r.snap → (∀ k, k < frameBits s.snap → frameBit s.snap k = frameBit r.snap k) →
    let data := (List.range (frameBits s.snap)).flatMap fun k =>
      if frameBit s.snap k then [(true, 2 * u.subbit), (false, u.subbit)] else [(true, u.subbit), (false, 2 * u.subbit)]
    let padding := [(false, 8 * u.padb * u.subbit)]
    ∃ g lead d trail, (s.encoderRun (frameBits s.snap)).wire = s.wire ++ g ∧
      (r.encoderRun (8 * r.xlen)).wire = r.wire ++ (lead ++ d ++ trail) ∧
      wireTrace g = data ∧ wireTrace lead = padding ∧ wireTrace d = data ∧ wireTrace trail = padding

/-- R245, R218: no move of the host's during TX changes or delays the frame: SNAP, XBUF, XLEN, SEQ, the state of the encoder,
the wire, FRAMES and GAP_OK stay as they were. -/
def Obligations.HostCannotDisturbAFrame : Prop :=
  ∀ s t : State, s.encState = .tx → s.nextTurn = .host → step s = .next t →
    t.snap = s.snap ∧ t.xbuf = s.xbuf ∧ t.xlen = s.xlen ∧ t.seq = s.seq ∧ t.encState = s.encState ∧ t.wire = s.wire ∧
      t.frames = s.frames ∧ t.gapOk = s.gapOk

/-! ### Bus accesses -/

/-- R73, R74, R75: a wrong size, a misaligned offset, an unmapped offset or a write to an RO register records BAD_ACCESS with
ACC = 1 and OPC = 0, returns 0 if it is a read, and does nothing else; a read of the WO register CMD returns 0 and records
nothing. That every access outside the aperture reaches the block is log entry 14; the list of values read is the model's form of
00_scope.md R10 (log entry 6). -/
def Obligations.BadAccessesOnlyRecord : Prop :=
  ∀ (s : State) (off size : Nat) (w : Word),
    (size ≠ 4 ∨ off % 4 ≠ 0 ∨ ¬ Mapped s.params off →
      hostAccess ⟨.read, off, size, w⟩ s =
        .next { s with err := errRecord s.err .badAccess 0x00#8 true, reads := s.reads ++ [0x00000000#32] } ∧
      hostAccess ⟨.write, off, size, w⟩ s = .next { s with err := errRecord s.err .badAccess 0x00#8 true }) ∧
    (off ∈ roOffsets → hostAccess ⟨.write, off, 4, w⟩ s = .next { s with err := errRecord s.err .badAccess 0x00#8 true }) ∧
    hostAccess ⟨.read, 0x00C, 4, w⟩ s = .next { s with reads := s.reads ++ [0x00000000#32] }

/-- R72, R76 (reads): a legal read returns the value of the register or RAM word at the offset, and nothing else changes but
the list of values read (log entry 6). In a build whose parameter does not fit its CAP field the register shows it cut to the
field's width (log entry 13). -/
def Obligations.LegalReadsReturnTheirWordAndChangeNothing : Prop :=
  ∀ (s : State) (w : Word),
    (∀ x ∈ [(0x000, 0x50584C31#32), (0x004, s.status), (0x008, s.err), (0x00C, 0#32), (0x010, s.arg0), (0x014, s.arg1),
        (0x018, s.arg2), (0x01C, s.res), (0x020, s.config), (0x024, s.npix), (0x028, s.paln), (0x02C, s.irqStat),
        (0x030, s.irqEn), (0x034, s.frames), (0x038, BitVec.ofNat 32 s.params.pixelCap),
        (0x03C, BitVec.ofNat 32 (s.params.palCap % 512 + s.params.hasGpio.toNat * 65536 + s.params.hasSpi.toNat * 131072)),
        (0x040, BitVec.ofNat 32 s.params.spiBufBytes)],
      hostAccess ⟨.read, x.1, 4, w⟩ s = .next { s with reads := s.reads ++ [x.2] }) ∧
    (∀ off, RamOff s.params off →
      hostAccess ⟨.read, off, 4, w⟩ s = .next { s with reads := s.reads ++ [s.ramWord off] })

/-- R21, R25, R30, R31, R284: the writes to ARG0 to ARG2, ERR (any value clears), IRQ_STAT (write 1 to clear bit 0) and
IRQ_EN (bits 1:0 stored), each changing its register alone. -/
def Obligations.RegisterWritesChangeOneRegister : Prop :=
  ∀ (s : State) (w : Word),
    hostAccess ⟨.write, 0x010, 4, w⟩ s = .next { s with arg0 := w } ∧
    hostAccess ⟨.write, 0x014, 4, w⟩ s = .next { s with arg1 := w } ∧
    hostAccess ⟨.write, 0x018, 4, w⟩ s = .next { s with arg2 := w } ∧
    hostAccess ⟨.write, 0x008, 4, w⟩ s = .next { s with err := 0x00000000#32 } ∧
    (s.irqStat.toNat < 2 → hostAccess ⟨.write, 0x02C, 4, w⟩ s =
      .next { s with irqStat := if w.getLsbD 0 then 0#32 else s.irqStat }) ∧
    hostAccess ⟨.write, 0x030, 4, w⟩ s = .next { s with irqEn := BitVec.ofNat 32 (w.toNat % 4) }

/-- R37, R38, R77: a write to a RAM word stores all 32 bits, and every byte outside the word and every other part of the
state is unchanged. -/
def Obligations.RamWritesStoreOneWord : Prop :=
  ∀ (s : State) (off : Nat) (w : Word), RamOff s.params off →
    ∃ t, hostAccess ⟨.write, off, 4, w⟩ s = .next t ∧ t.ramWord off = w ∧
      (∀ a, a < off ∨ off + 4 ≤ a → t.ramByte a = s.ramByte a) ∧ { t with mem := s.mem } = s

/-- R24: every bit of STATUS; a read computes it, a write is a BAD_ACCESS. -/
def Obligations.StatusBits : Prop :=
  State.reset.status = 0x00000000#32 ∧
    (∀ (s : State) (w : Word),
      hostAccess ⟨.read, 0x004, 4, w⟩ s = .next { s with reads := s.reads ++ [s.status] } ∧
      hostAccess ⟨.write, 0x004, 4, w⟩ s = .next { s with err := errRecord s.err .badAccess 0x00#8 true }) ∧
    ∀ s : State, s.status.toNat =
      (decide (s.encState = .tx) || (decide (s.cfgst = .configured) && decide (s.config.toNat / 4 % 4 = 0) && !s.gapOk)).toNat +
      2 * (decide (s.encState = .tx)).toNat + 4 * s.gapOk.toNat +
      16 * (match s.cfgst with | .unconfigured => 0 | .configured => 1 | .failed => 2) +
      64 * (decide (1 ≤ s.paln.toNat)).toNat + 128 * (decide (s.err.toNat % 256 ≠ 0)).toNat

/-- R25, R281, R283: the first error sets CODE, by the numbers of R281, OPC and ACC and keeps the rest; a later one sets MULTI and
keeps the rest. -/
def Obligations.FirstErrorSticksLaterOnesSetMulti : Prop :=
  (ErrCode.illegalCmd.code = 0x01#8 ∧ ErrCode.badStrategy.code = 0x02#8 ∧ ErrCode.strategyUnavailable.code = 0x03#8 ∧
    ErrCode.unsupportedProtocol.code = 0x04#8 ∧ ErrCode.invalidOrder.code = 0x05#8 ∧ ErrCode.invalidNpix.code = 0x06#8 ∧
    ErrCode.allocFail.code = 0x07#8 ∧ ErrCode.notConfigured.code = 0x08#8 ∧ ErrCode.invalidPalette.code = 0x09#8 ∧
    ErrCode.badAccess.code = 0x0A#8) ∧
  ∀ (s : State) (e : ErrCode) (opc : Byte) (acc : Bool),
    let n := s.err.toNat
    let t := s.record e opc acc
    { t with err := s.err } = s ∧
      (n % 256 = 0 → t.err.toNat % 256 = e.code.toNat ∧ t.err.toNat / 256 % 256 = n / 256 % 256 ∧
        t.err.toNat / 65536 % 256 = (if acc then 0 else opc.toNat) ∧ t.err.toNat / 16777216 % 2 = acc.toNat ∧
        t.err.toNat / 33554432 = n / 33554432) ∧
      (n % 256 ≠ 0 → t.err = s.err ||| 0x00000100#32)

/-- R32, R287: the interrupt output is a level of the two pending sources and their enables; it is 0 at reset. -/
def Obligations.IrqLevel : Prop :=
  State.reset.irq = false ∧
    ∀ s : State, s.irq = true ↔
      (s.irqStat.toNat % 2 = 1 ∧ s.irqEn.toNat % 2 = 1) ∨ (s.err.toNat % 256 ≠ 0 ∧ s.irqEn.toNat / 2 % 2 = 1)

/-! ### Reset -/

/-- R321: what every register reads after a reset, from any state of an admitted build; IRQ is 0. An SPI_BUF_BYTES of 2^32 or more
reads cut to 32 bits (log entry 13). -/
def Obligations.ResetRegisterValues : Prop :=
  ∀ s t : State, s.params.legal = true → s.nextTurn = .reset → step s = .next t →
    t.readReg .id = 0x50584C31#32 ∧
    (∀ r ∈ [Reg.status, .err, .cmd, .arg0, .arg1, .arg2, .res, .config, .npix, .paln, .irqStat, .irqEn, .frames],
      t.readReg r = 0x00000000#32) ∧
    (t.readReg .capPix).toNat = s.params.pixelCap ∧
    (t.readReg .capMisc).toNat = s.params.palCap + s.params.hasGpio.toNat * 65536 + s.params.hasSpi.toNat * 131072 ∧
    t.readReg .capXbuf = BitVec.ofNat 32 s.params.spiBufBytes ∧ t.irq = false

/-- R322, R323, R324: a reset from any state of an admitted build answers a next state with the internal state of R322, a
held write discarded, every RAM byte a draw of the new reset, and on the wire, in TX, the bit in progress cut short and then
low (log entries 2 and 7 for the form of the draws, 8 for the tag of a cut SPI bit). That the parameters, what the host has still
to do and the values it has read stay is the model's choice (log entries 1, 4 and 6): in the model a reset of the block resets neither
the host nor the observer, where R324 leaves the host's own reset to the platform's wiring. -/
def Obligations.ResetAbortsFrameAndHold : Prop :=
  ∀ s : State, s.params.legal = true → s.nextTurn = .reset →
    ∃ t, step s = .next t ∧ t.cfgst = .unconfigured ∧ t.encState = .idle ∧ t.seq = 0 ∧ t.gapOk = false ∧ t.xlen = 0 ∧
      t.held = .empty ∧ t.params = s.params ∧ t.prog = s.prog ∧ t.reads = s.reads ∧
      (∀ a, t.ramByte a = Config.ramDraw t.ramEpoch a) ∧ s.draws ≤ t.ramEpoch ∧ t.ramEpoch < t.draws ∧
      (s.encState = .idle → t.wire = s.wire) ∧
      (s.encoderEnabled = true → s.encState = .tx → isGpio s.snap.config = true →
        let g := gpioWave (timing s.params (isP32 s.snap.config)) (frameBit s.snap s.seq)
        ∃ c low, (∃ hi, g.head? = some hi ∧
          ((c ≤ hi.ticks ∧ t.wire = s.wire ++ [⟨.gpio, true, c⟩, ⟨.idle, false, low⟩]) ∨
            (c ≤ (timing s.params (isP32 s.snap.config)).tbit - hi.ticks ∧
              t.wire = s.wire ++ [hi, ⟨.gpio, false, c⟩, ⟨.idle, false, low⟩])))) ∧
      (s.encoderEnabled = true → s.encState = .tx → isSpi s.snap.config = true →
        ∃ c low, c ≤ (timing s.params (isP32 s.snap.config)).subbit ∧
          t.wire = s.wire ++ [⟨.spiCut, streamBit s.xbuf s.seq, c⟩, ⟨.idle, false, low⟩])

/-! ### Invariants -/

/-- The state right after reset meets the machine's invariant and the reset-gap invariant. -/
def Obligations.ResetMeetsTheInvariants : Prop := State.reset.Inv ∧ State.reset.GapInv

/-- R295, R28, R29, R41, R45 and the reserved bits of 10_state.md: from every state that meets the invariant, the machine
steps, and to a state that meets it: it never faults, refuses or hangs. -/
def Obligations.EveryStepKeepsTheInvariant : Prop :=
  ∀ s : State, s.Inv → ∃ t, step s = .next t ∧ t.Inv

/-- R43, R254: every step keeps the reset-gap invariant. -/
def Obligations.EveryStepKeepsTheResetGap : Prop :=
  ∀ s t : State, s.Inv → s.GapInv → step s = .next t → t.GapInv

/-- R254: a GPIO frame starts only on a line that has been low for at least RESET_TICKS, and the padding of an SPI frame
spans RESET_TICKS. -/
def Obligations.EveryFrameStartsAfterTheResetGap : Prop :=
  ∀ s t : State, s.Inv → s.GapInv → step s = .next t → s.encState = .idle → t.encState = .tx →
    t.seq = 0 ∧
    (isGpio t.snap.config = true → t.params.resetTicks ≤ trailingLow t.wire) ∧
    (isSpi t.snap.config = true →
      t.params.resetTicks ≤
          (timing t.params (isP32 t.snap.config)).padb * 8 * (timing t.params (isP32 t.snap.config)).subbit ∧
      ∀ j, j < 8 * (timing t.params (isP32 t.snap.config)).padb → streamBit t.xbuf j = false)

/-- R132, R133, R339: in a state that meets the invariant a hold is lifted by the encoder alone: after at most the rest of the
frame and one gap step HELD is empty or its write's condition holds. R81, R240, R339: every run is weakly fair to the encoder, and a
run whose states meet the invariant comes, from any moment on, to the end of R342: every frame has ended, every gap has elapsed and
every hold has been lifted. The host's finite list, the turns and what ends a run are the model's form (log entries 4 and 5). -/
def Obligations.EncoderLiftsEveryHold : Prop :=
  (∀ s : State, s.Inv → s.held ≠ .empty →
    ∃ n, n ≤ (s.seqEnd - s.seq) + 1 ∧ ((s.encoderRun n).held = .empty ∨ (s.encoderRun n).hostEnabled = true)) ∧
  (∀ r, IsRun r → FairToEncoder r) ∧
  ∀ r, IsRun r → (r 0).Inv → ∀ n, ∃ m, n ≤ m ∧ (r m).Quiescent

/-- 93_implementation_defined.md U12 and U14: the machine stops in these two cases, in the model's names (log entries 11 and 12),
and in no other: in an admitted build a state that is not stuck, or whose turn is reset's, steps. -/
def Obligations.WhereTheMachineStops : Prop :=
  ∀ s : State,
    (s.params.legal = false → step s = .refused .illegalBuild) ∧
    (s.params.legal = true → s.stuck = true → s.nextTurn ≠ .reset → step s = .fault .heldForever) ∧
    (s.params.legal = true → (s.stuck = false ∨ s.nextTurn = .reset) → ∃ t, step s = .next t)

/-- R342, R294: at the end of a run nothing moves. R342 says that the run ends there; that the step answers the same state, and that
Quiescent also asks that no turn is left in the schedule, is the model's form (log entry 5). -/
def Obligations.NothingMovesAtTheEndOfARun : Prop :=
  ∀ s : State, s.params.legal = true → s.Quiescent → step s = .next s

/-- R7, R34 to R36: no step changes the parameters, which the model carries in State (log entry 1). -/
def Obligations.NoStepChangesTheParameters : Prop :=
  ∀ s t : State, step s = .next t → t.params = s.params
end

