-- ==== Sys2Proof/Laws/State.lean ====
section
/-! SUPPORT. Beside State: what each shared update does to each field, true by unfolding, so that no later proof unfolds a
record update. -/

namespace Sys2Proof.Machine

/-! ### setRes -/

@[simp] theorem State.setRes_arg0 (s : State) (v : Word) : (s.setRes v).arg0 = s.arg0 := rfl
@[simp] theorem State.setRes_arg1 (s : State) (v : Word) : (s.setRes v).arg1 = s.arg1 := rfl
@[simp] theorem State.setRes_arg2 (s : State) (v : Word) : (s.setRes v).arg2 = s.arg2 := rfl
@[simp] theorem State.setRes_res (s : State) (v : Word) : (s.setRes v).res = v := rfl
@[simp] theorem State.setRes_err (s : State) (v : Word) : (s.setRes v).err = s.err := rfl
@[simp] theorem State.setRes_config (s : State) (v : Word) : (s.setRes v).config = s.config := rfl
@[simp] theorem State.setRes_npix (s : State) (v : Word) : (s.setRes v).npix = s.npix := rfl
@[simp] theorem State.setRes_paln (s : State) (v : Word) : (s.setRes v).paln = s.paln := rfl
@[simp] theorem State.setRes_irqStat (s : State) (v : Word) : (s.setRes v).irqStat = s.irqStat := rfl
@[simp] theorem State.setRes_irqEn (s : State) (v : Word) : (s.setRes v).irqEn = s.irqEn := rfl
@[simp] theorem State.setRes_frames (s : State) (v : Word) : (s.setRes v).frames = s.frames := rfl
@[simp] theorem State.setRes_mem (s : State) (v : Word) : (s.setRes v).mem = s.mem := rfl
@[simp] theorem State.setRes_cfgst (s : State) (v : Word) : (s.setRes v).cfgst = s.cfgst := rfl
@[simp] theorem State.setRes_encState (s : State) (v : Word) : (s.setRes v).encState = s.encState := rfl
@[simp] theorem State.setRes_seq (s : State) (v : Word) : (s.setRes v).seq = s.seq := rfl
@[simp] theorem State.setRes_snap (s : State) (v : Word) : (s.setRes v).snap = s.snap := rfl
@[simp] theorem State.setRes_gapOk (s : State) (v : Word) : (s.setRes v).gapOk = s.gapOk := rfl
@[simp] theorem State.setRes_xbuf (s : State) (v : Word) : (s.setRes v).xbuf = s.xbuf := rfl
@[simp] theorem State.setRes_xlen (s : State) (v : Word) : (s.setRes v).xlen = s.xlen := rfl
@[simp] theorem State.setRes_held (s : State) (v : Word) : (s.setRes v).held = s.held := rfl
@[simp] theorem State.setRes_params (s : State) (v : Word) : (s.setRes v).params = s.params := rfl
@[simp] theorem State.setRes_ramEpoch (s : State) (v : Word) : (s.setRes v).ramEpoch = s.ramEpoch := rfl
@[simp] theorem State.setRes_draws (s : State) (v : Word) : (s.setRes v).draws = s.draws := rfl
@[simp] theorem State.setRes_prog (s : State) (v : Word) : (s.setRes v).prog = s.prog := rfl
@[simp] theorem State.setRes_sched (s : State) (v : Word) : (s.setRes v).sched = s.sched := rfl
@[simp] theorem State.setRes_passed (s : State) (v : Word) : (s.setRes v).passed = s.passed := rfl
@[simp] theorem State.setRes_picks (s : State) (v : Word) : (s.setRes v).picks = s.picks := rfl
@[simp] theorem State.setRes_reads (s : State) (v : Word) : (s.setRes v).reads = s.reads := rfl
@[simp] theorem State.setRes_wire (s : State) (v : Word) : (s.setRes v).wire = s.wire := rfl

/-! ### setRamWord -/

@[simp] theorem State.setRamWord_arg0 (s : State) (off : Nat) (w : Word) : (s.setRamWord off w).arg0 = s.arg0 := rfl
@[simp] theorem State.setRamWord_arg1 (s : State) (off : Nat) (w : Word) : (s.setRamWord off w).arg1 = s.arg1 := rfl
@[simp] theorem State.setRamWord_arg2 (s : State) (off : Nat) (w : Word) : (s.setRamWord off w).arg2 = s.arg2 := rfl
@[simp] theorem State.setRamWord_res (s : State) (off : Nat) (w : Word) : (s.setRamWord off w).res = s.res := rfl
@[simp] theorem State.setRamWord_err (s : State) (off : Nat) (w : Word) : (s.setRamWord off w).err = s.err := rfl
@[simp] theorem State.setRamWord_config (s : State) (off : Nat) (w : Word) : (s.setRamWord off w).config = s.config := rfl
@[simp] theorem State.setRamWord_npix (s : State) (off : Nat) (w : Word) : (s.setRamWord off w).npix = s.npix := rfl
@[simp] theorem State.setRamWord_paln (s : State) (off : Nat) (w : Word) : (s.setRamWord off w).paln = s.paln := rfl
@[simp] theorem State.setRamWord_irqStat (s : State) (off : Nat) (w : Word) : (s.setRamWord off w).irqStat = s.irqStat := rfl
@[simp] theorem State.setRamWord_irqEn (s : State) (off : Nat) (w : Word) : (s.setRamWord off w).irqEn = s.irqEn := rfl
@[simp] theorem State.setRamWord_frames (s : State) (off : Nat) (w : Word) : (s.setRamWord off w).frames = s.frames := rfl
@[simp] theorem State.setRamWord_mem (s : State) (off : Nat) (w : Word) : (s.setRamWord off w).mem = s.mem.writeWord off w := rfl
@[simp] theorem State.setRamWord_cfgst (s : State) (off : Nat) (w : Word) : (s.setRamWord off w).cfgst = s.cfgst := rfl
@[simp] theorem State.setRamWord_encState (s : State) (off : Nat) (w : Word) : (s.setRamWord off w).encState = s.encState := rfl
@[simp] theorem State.setRamWord_seq (s : State) (off : Nat) (w : Word) : (s.setRamWord off w).seq = s.seq := rfl
@[simp] theorem State.setRamWord_snap (s : State) (off : Nat) (w : Word) : (s.setRamWord off w).snap = s.snap := rfl
@[simp] theorem State.setRamWord_gapOk (s : State) (off : Nat) (w : Word) : (s.setRamWord off w).gapOk = s.gapOk := rfl
@[simp] theorem State.setRamWord_xbuf (s : State) (off : Nat) (w : Word) : (s.setRamWord off w).xbuf = s.xbuf := rfl
@[simp] theorem State.setRamWord_xlen (s : State) (off : Nat) (w : Word) : (s.setRamWord off w).xlen = s.xlen := rfl
@[simp] theorem State.setRamWord_held (s : State) (off : Nat) (w : Word) : (s.setRamWord off w).held = s.held := rfl
@[simp] theorem State.setRamWord_params (s : State) (off : Nat) (w : Word) : (s.setRamWord off w).params = s.params := rfl
@[simp] theorem State.setRamWord_ramEpoch (s : State) (off : Nat) (w : Word) : (s.setRamWord off w).ramEpoch = s.ramEpoch := rfl
@[simp] theorem State.setRamWord_draws (s : State) (off : Nat) (w : Word) : (s.setRamWord off w).draws = s.draws := rfl
@[simp] theorem State.setRamWord_prog (s : State) (off : Nat) (w : Word) : (s.setRamWord off w).prog = s.prog := rfl
@[simp] theorem State.setRamWord_sched (s : State) (off : Nat) (w : Word) : (s.setRamWord off w).sched = s.sched := rfl
@[simp] theorem State.setRamWord_passed (s : State) (off : Nat) (w : Word) : (s.setRamWord off w).passed = s.passed := rfl
@[simp] theorem State.setRamWord_picks (s : State) (off : Nat) (w : Word) : (s.setRamWord off w).picks = s.picks := rfl
@[simp] theorem State.setRamWord_reads (s : State) (off : Nat) (w : Word) : (s.setRamWord off w).reads = s.reads := rfl
@[simp] theorem State.setRamWord_wire (s : State) (off : Nat) (w : Word) : (s.setRamWord off w).wire = s.wire := rfl

/-! ### setPal -/

@[simp] theorem State.setPal_arg0 (s : State) (i : Nat) (w : Word) : (s.setPal i w).arg0 = s.arg0 := rfl
@[simp] theorem State.setPal_arg1 (s : State) (i : Nat) (w : Word) : (s.setPal i w).arg1 = s.arg1 := rfl
@[simp] theorem State.setPal_arg2 (s : State) (i : Nat) (w : Word) : (s.setPal i w).arg2 = s.arg2 := rfl
@[simp] theorem State.setPal_res (s : State) (i : Nat) (w : Word) : (s.setPal i w).res = s.res := rfl
@[simp] theorem State.setPal_err (s : State) (i : Nat) (w : Word) : (s.setPal i w).err = s.err := rfl
@[simp] theorem State.setPal_config (s : State) (i : Nat) (w : Word) : (s.setPal i w).config = s.config := rfl
@[simp] theorem State.setPal_npix (s : State) (i : Nat) (w : Word) : (s.setPal i w).npix = s.npix := rfl
@[simp] theorem State.setPal_paln (s : State) (i : Nat) (w : Word) : (s.setPal i w).paln = s.paln := rfl
@[simp] theorem State.setPal_irqStat (s : State) (i : Nat) (w : Word) : (s.setPal i w).irqStat = s.irqStat := rfl
@[simp] theorem State.setPal_irqEn (s : State) (i : Nat) (w : Word) : (s.setPal i w).irqEn = s.irqEn := rfl
@[simp] theorem State.setPal_frames (s : State) (i : Nat) (w : Word) : (s.setPal i w).frames = s.frames := rfl
@[simp] theorem State.setPal_mem (s : State) (i : Nat) (w : Word) : (s.setPal i w).mem = s.mem.writeWord (palOff i) w := rfl
@[simp] theorem State.setPal_cfgst (s : State) (i : Nat) (w : Word) : (s.setPal i w).cfgst = s.cfgst := rfl
@[simp] theorem State.setPal_encState (s : State) (i : Nat) (w : Word) : (s.setPal i w).encState = s.encState := rfl
@[simp] theorem State.setPal_seq (s : State) (i : Nat) (w : Word) : (s.setPal i w).seq = s.seq := rfl
@[simp] theorem State.setPal_snap (s : State) (i : Nat) (w : Word) : (s.setPal i w).snap = s.snap := rfl
@[simp] theorem State.setPal_gapOk (s : State) (i : Nat) (w : Word) : (s.setPal i w).gapOk = s.gapOk := rfl
@[simp] theorem State.setPal_xbuf (s : State) (i : Nat) (w : Word) : (s.setPal i w).xbuf = s.xbuf := rfl
@[simp] theorem State.setPal_xlen (s : State) (i : Nat) (w : Word) : (s.setPal i w).xlen = s.xlen := rfl
@[simp] theorem State.setPal_held (s : State) (i : Nat) (w : Word) : (s.setPal i w).held = s.held := rfl
@[simp] theorem State.setPal_params (s : State) (i : Nat) (w : Word) : (s.setPal i w).params = s.params := rfl
@[simp] theorem State.setPal_ramEpoch (s : State) (i : Nat) (w : Word) : (s.setPal i w).ramEpoch = s.ramEpoch := rfl
@[simp] theorem State.setPal_draws (s : State) (i : Nat) (w : Word) : (s.setPal i w).draws = s.draws := rfl
@[simp] theorem State.setPal_prog (s : State) (i : Nat) (w : Word) : (s.setPal i w).prog = s.prog := rfl
@[simp] theorem State.setPal_sched (s : State) (i : Nat) (w : Word) : (s.setPal i w).sched = s.sched := rfl
@[simp] theorem State.setPal_passed (s : State) (i : Nat) (w : Word) : (s.setPal i w).passed = s.passed := rfl
@[simp] theorem State.setPal_picks (s : State) (i : Nat) (w : Word) : (s.setPal i w).picks = s.picks := rfl
@[simp] theorem State.setPal_reads (s : State) (i : Nat) (w : Word) : (s.setPal i w).reads = s.reads := rfl
@[simp] theorem State.setPal_wire (s : State) (i : Nat) (w : Word) : (s.setPal i w).wire = s.wire := rfl

/-! ### setPix -/

@[simp] theorem State.setPix_arg0 (s : State) (i : Nat) (w : Word) : (s.setPix i w).arg0 = s.arg0 := rfl
@[simp] theorem State.setPix_arg1 (s : State) (i : Nat) (w : Word) : (s.setPix i w).arg1 = s.arg1 := rfl
@[simp] theorem State.setPix_arg2 (s : State) (i : Nat) (w : Word) : (s.setPix i w).arg2 = s.arg2 := rfl
@[simp] theorem State.setPix_res (s : State) (i : Nat) (w : Word) : (s.setPix i w).res = s.res := rfl
@[simp] theorem State.setPix_err (s : State) (i : Nat) (w : Word) : (s.setPix i w).err = s.err := rfl
@[simp] theorem State.setPix_config (s : State) (i : Nat) (w : Word) : (s.setPix i w).config = s.config := rfl
@[simp] theorem State.setPix_npix (s : State) (i : Nat) (w : Word) : (s.setPix i w).npix = s.npix := rfl
@[simp] theorem State.setPix_paln (s : State) (i : Nat) (w : Word) : (s.setPix i w).paln = s.paln := rfl
@[simp] theorem State.setPix_irqStat (s : State) (i : Nat) (w : Word) : (s.setPix i w).irqStat = s.irqStat := rfl
@[simp] theorem State.setPix_irqEn (s : State) (i : Nat) (w : Word) : (s.setPix i w).irqEn = s.irqEn := rfl
@[simp] theorem State.setPix_frames (s : State) (i : Nat) (w : Word) : (s.setPix i w).frames = s.frames := rfl
@[simp] theorem State.setPix_mem (s : State) (i : Nat) (w : Word) : (s.setPix i w).mem = s.mem.writeWord (pixOff i) w := rfl
@[simp] theorem State.setPix_cfgst (s : State) (i : Nat) (w : Word) : (s.setPix i w).cfgst = s.cfgst := rfl
@[simp] theorem State.setPix_encState (s : State) (i : Nat) (w : Word) : (s.setPix i w).encState = s.encState := rfl
@[simp] theorem State.setPix_seq (s : State) (i : Nat) (w : Word) : (s.setPix i w).seq = s.seq := rfl
@[simp] theorem State.setPix_snap (s : State) (i : Nat) (w : Word) : (s.setPix i w).snap = s.snap := rfl
@[simp] theorem State.setPix_gapOk (s : State) (i : Nat) (w : Word) : (s.setPix i w).gapOk = s.gapOk := rfl
@[simp] theorem State.setPix_xbuf (s : State) (i : Nat) (w : Word) : (s.setPix i w).xbuf = s.xbuf := rfl
@[simp] theorem State.setPix_xlen (s : State) (i : Nat) (w : Word) : (s.setPix i w).xlen = s.xlen := rfl
@[simp] theorem State.setPix_held (s : State) (i : Nat) (w : Word) : (s.setPix i w).held = s.held := rfl
@[simp] theorem State.setPix_params (s : State) (i : Nat) (w : Word) : (s.setPix i w).params = s.params := rfl
@[simp] theorem State.setPix_ramEpoch (s : State) (i : Nat) (w : Word) : (s.setPix i w).ramEpoch = s.ramEpoch := rfl
@[simp] theorem State.setPix_draws (s : State) (i : Nat) (w : Word) : (s.setPix i w).draws = s.draws := rfl
@[simp] theorem State.setPix_prog (s : State) (i : Nat) (w : Word) : (s.setPix i w).prog = s.prog := rfl
@[simp] theorem State.setPix_sched (s : State) (i : Nat) (w : Word) : (s.setPix i w).sched = s.sched := rfl
@[simp] theorem State.setPix_passed (s : State) (i : Nat) (w : Word) : (s.setPix i w).passed = s.passed := rfl
@[simp] theorem State.setPix_picks (s : State) (i : Nat) (w : Word) : (s.setPix i w).picks = s.picks := rfl
@[simp] theorem State.setPix_reads (s : State) (i : Nat) (w : Word) : (s.setPix i w).reads = s.reads := rfl
@[simp] theorem State.setPix_wire (s : State) (i : Nat) (w : Word) : (s.setPix i w).wire = s.wire := rfl

/-! ### record -/

@[simp] theorem State.record_arg0 (s : State) (c : ErrCode) (o : Byte) (a : Bool) : (s.record c o a).arg0 = s.arg0 := rfl
@[simp] theorem State.record_arg1 (s : State) (c : ErrCode) (o : Byte) (a : Bool) : (s.record c o a).arg1 = s.arg1 := rfl
@[simp] theorem State.record_arg2 (s : State) (c : ErrCode) (o : Byte) (a : Bool) : (s.record c o a).arg2 = s.arg2 := rfl
@[simp] theorem State.record_res (s : State) (c : ErrCode) (o : Byte) (a : Bool) : (s.record c o a).res = s.res := rfl
@[simp] theorem State.record_err (s : State) (c : ErrCode) (o : Byte) (a : Bool) : (s.record c o a).err = errRecord s.err c o a := rfl
@[simp] theorem State.record_config (s : State) (c : ErrCode) (o : Byte) (a : Bool) : (s.record c o a).config = s.config := rfl
@[simp] theorem State.record_npix (s : State) (c : ErrCode) (o : Byte) (a : Bool) : (s.record c o a).npix = s.npix := rfl
@[simp] theorem State.record_paln (s : State) (c : ErrCode) (o : Byte) (a : Bool) : (s.record c o a).paln = s.paln := rfl
@[simp] theorem State.record_irqStat (s : State) (c : ErrCode) (o : Byte) (a : Bool) : (s.record c o a).irqStat = s.irqStat := rfl
@[simp] theorem State.record_irqEn (s : State) (c : ErrCode) (o : Byte) (a : Bool) : (s.record c o a).irqEn = s.irqEn := rfl
@[simp] theorem State.record_frames (s : State) (c : ErrCode) (o : Byte) (a : Bool) : (s.record c o a).frames = s.frames := rfl
@[simp] theorem State.record_mem (s : State) (c : ErrCode) (o : Byte) (a : Bool) : (s.record c o a).mem = s.mem := rfl
@[simp] theorem State.record_cfgst (s : State) (c : ErrCode) (o : Byte) (a : Bool) : (s.record c o a).cfgst = s.cfgst := rfl
@[simp] theorem State.record_encState (s : State) (c : ErrCode) (o : Byte) (a : Bool) : (s.record c o a).encState = s.encState := rfl
@[simp] theorem State.record_seq (s : State) (c : ErrCode) (o : Byte) (a : Bool) : (s.record c o a).seq = s.seq := rfl
@[simp] theorem State.record_snap (s : State) (c : ErrCode) (o : Byte) (a : Bool) : (s.record c o a).snap = s.snap := rfl
@[simp] theorem State.record_gapOk (s : State) (c : ErrCode) (o : Byte) (a : Bool) : (s.record c o a).gapOk = s.gapOk := rfl
@[simp] theorem State.record_xbuf (s : State) (c : ErrCode) (o : Byte) (a : Bool) : (s.record c o a).xbuf = s.xbuf := rfl
@[simp] theorem State.record_xlen (s : State) (c : ErrCode) (o : Byte) (a : Bool) : (s.record c o a).xlen = s.xlen := rfl
@[simp] theorem State.record_held (s : State) (c : ErrCode) (o : Byte) (a : Bool) : (s.record c o a).held = s.held := rfl
@[simp] theorem State.record_params (s : State) (c : ErrCode) (o : Byte) (a : Bool) : (s.record c o a).params = s.params := rfl
@[simp] theorem State.record_ramEpoch (s : State) (c : ErrCode) (o : Byte) (a : Bool) : (s.record c o a).ramEpoch = s.ramEpoch := rfl
@[simp] theorem State.record_draws (s : State) (c : ErrCode) (o : Byte) (a : Bool) : (s.record c o a).draws = s.draws := rfl
@[simp] theorem State.record_prog (s : State) (c : ErrCode) (o : Byte) (a : Bool) : (s.record c o a).prog = s.prog := rfl
@[simp] theorem State.record_sched (s : State) (c : ErrCode) (o : Byte) (a : Bool) : (s.record c o a).sched = s.sched := rfl
@[simp] theorem State.record_passed (s : State) (c : ErrCode) (o : Byte) (a : Bool) : (s.record c o a).passed = s.passed := rfl
@[simp] theorem State.record_picks (s : State) (c : ErrCode) (o : Byte) (a : Bool) : (s.record c o a).picks = s.picks := rfl
@[simp] theorem State.record_reads (s : State) (c : ErrCode) (o : Byte) (a : Bool) : (s.record c o a).reads = s.reads := rfl
@[simp] theorem State.record_wire (s : State) (c : ErrCode) (o : Byte) (a : Bool) : (s.record c o a).wire = s.wire := rfl

/-! ### raise -/

@[simp] theorem State.raise_arg0 (s : State) (c : ErrCode) (o : Byte) : (s.raise c o).arg0 = s.arg0 := rfl
@[simp] theorem State.raise_arg1 (s : State) (c : ErrCode) (o : Byte) : (s.raise c o).arg1 = s.arg1 := rfl
@[simp] theorem State.raise_arg2 (s : State) (c : ErrCode) (o : Byte) : (s.raise c o).arg2 = s.arg2 := rfl
@[simp] theorem State.raise_res (s : State) (c : ErrCode) (o : Byte) : (s.raise c o).res = s.res := rfl
@[simp] theorem State.raise_err (s : State) (c : ErrCode) (o : Byte) : (s.raise c o).err = errRecord s.err c o false := rfl
@[simp] theorem State.raise_config (s : State) (c : ErrCode) (o : Byte) : (s.raise c o).config = s.config := rfl
@[simp] theorem State.raise_npix (s : State) (c : ErrCode) (o : Byte) : (s.raise c o).npix = s.npix := rfl
@[simp] theorem State.raise_paln (s : State) (c : ErrCode) (o : Byte) : (s.raise c o).paln = s.paln := rfl
@[simp] theorem State.raise_irqStat (s : State) (c : ErrCode) (o : Byte) : (s.raise c o).irqStat = s.irqStat := rfl
@[simp] theorem State.raise_irqEn (s : State) (c : ErrCode) (o : Byte) : (s.raise c o).irqEn = s.irqEn := rfl
@[simp] theorem State.raise_frames (s : State) (c : ErrCode) (o : Byte) : (s.raise c o).frames = s.frames := rfl
@[simp] theorem State.raise_mem (s : State) (c : ErrCode) (o : Byte) : (s.raise c o).mem = s.mem := rfl
@[simp] theorem State.raise_cfgst (s : State) (c : ErrCode) (o : Byte) : (s.raise c o).cfgst = s.cfgst := rfl
@[simp] theorem State.raise_encState (s : State) (c : ErrCode) (o : Byte) : (s.raise c o).encState = s.encState := rfl
@[simp] theorem State.raise_seq (s : State) (c : ErrCode) (o : Byte) : (s.raise c o).seq = s.seq := rfl
@[simp] theorem State.raise_snap (s : State) (c : ErrCode) (o : Byte) : (s.raise c o).snap = s.snap := rfl
@[simp] theorem State.raise_gapOk (s : State) (c : ErrCode) (o : Byte) : (s.raise c o).gapOk = s.gapOk := rfl
@[simp] theorem State.raise_xbuf (s : State) (c : ErrCode) (o : Byte) : (s.raise c o).xbuf = s.xbuf := rfl
@[simp] theorem State.raise_xlen (s : State) (c : ErrCode) (o : Byte) : (s.raise c o).xlen = s.xlen := rfl
@[simp] theorem State.raise_held (s : State) (c : ErrCode) (o : Byte) : (s.raise c o).held = s.held := rfl
@[simp] theorem State.raise_params (s : State) (c : ErrCode) (o : Byte) : (s.raise c o).params = s.params := rfl
@[simp] theorem State.raise_ramEpoch (s : State) (c : ErrCode) (o : Byte) : (s.raise c o).ramEpoch = s.ramEpoch := rfl
@[simp] theorem State.raise_draws (s : State) (c : ErrCode) (o : Byte) : (s.raise c o).draws = s.draws := rfl
@[simp] theorem State.raise_prog (s : State) (c : ErrCode) (o : Byte) : (s.raise c o).prog = s.prog := rfl
@[simp] theorem State.raise_sched (s : State) (c : ErrCode) (o : Byte) : (s.raise c o).sched = s.sched := rfl
@[simp] theorem State.raise_passed (s : State) (c : ErrCode) (o : Byte) : (s.raise c o).passed = s.passed := rfl
@[simp] theorem State.raise_picks (s : State) (c : ErrCode) (o : Byte) : (s.raise c o).picks = s.picks := rfl
@[simp] theorem State.raise_reads (s : State) (c : ErrCode) (o : Byte) : (s.raise c o).reads = s.reads := rfl
@[simp] theorem State.raise_wire (s : State) (c : ErrCode) (o : Byte) : (s.raise c o).wire = s.wire := rfl

/-! ### badAccess -/

@[simp] theorem State.badAccess_arg0 (s : State) : (s.badAccess).arg0 = s.arg0 := rfl
@[simp] theorem State.badAccess_arg1 (s : State) : (s.badAccess).arg1 = s.arg1 := rfl
@[simp] theorem State.badAccess_arg2 (s : State) : (s.badAccess).arg2 = s.arg2 := rfl
@[simp] theorem State.badAccess_res (s : State) : (s.badAccess).res = s.res := rfl
@[simp] theorem State.badAccess_err (s : State) : (s.badAccess).err = errRecord s.err .badAccess 0#8 true := rfl
@[simp] theorem State.badAccess_config (s : State) : (s.badAccess).config = s.config := rfl
@[simp] theorem State.badAccess_npix (s : State) : (s.badAccess).npix = s.npix := rfl
@[simp] theorem State.badAccess_paln (s : State) : (s.badAccess).paln = s.paln := rfl
@[simp] theorem State.badAccess_irqStat (s : State) : (s.badAccess).irqStat = s.irqStat := rfl
@[simp] theorem State.badAccess_irqEn (s : State) : (s.badAccess).irqEn = s.irqEn := rfl
@[simp] theorem State.badAccess_frames (s : State) : (s.badAccess).frames = s.frames := rfl
@[simp] theorem State.badAccess_mem (s : State) : (s.badAccess).mem = s.mem := rfl
@[simp] theorem State.badAccess_cfgst (s : State) : (s.badAccess).cfgst = s.cfgst := rfl
@[simp] theorem State.badAccess_encState (s : State) : (s.badAccess).encState = s.encState := rfl
@[simp] theorem State.badAccess_seq (s : State) : (s.badAccess).seq = s.seq := rfl
@[simp] theorem State.badAccess_snap (s : State) : (s.badAccess).snap = s.snap := rfl
@[simp] theorem State.badAccess_gapOk (s : State) : (s.badAccess).gapOk = s.gapOk := rfl
@[simp] theorem State.badAccess_xbuf (s : State) : (s.badAccess).xbuf = s.xbuf := rfl
@[simp] theorem State.badAccess_xlen (s : State) : (s.badAccess).xlen = s.xlen := rfl
@[simp] theorem State.badAccess_held (s : State) : (s.badAccess).held = s.held := rfl
@[simp] theorem State.badAccess_params (s : State) : (s.badAccess).params = s.params := rfl
@[simp] theorem State.badAccess_ramEpoch (s : State) : (s.badAccess).ramEpoch = s.ramEpoch := rfl
@[simp] theorem State.badAccess_draws (s : State) : (s.badAccess).draws = s.draws := rfl
@[simp] theorem State.badAccess_prog (s : State) : (s.badAccess).prog = s.prog := rfl
@[simp] theorem State.badAccess_sched (s : State) : (s.badAccess).sched = s.sched := rfl
@[simp] theorem State.badAccess_passed (s : State) : (s.badAccess).passed = s.passed := rfl
@[simp] theorem State.badAccess_picks (s : State) : (s.badAccess).picks = s.picks := rfl
@[simp] theorem State.badAccess_reads (s : State) : (s.badAccess).reads = s.reads := rfl
@[simp] theorem State.badAccess_wire (s : State) : (s.badAccess).wire = s.wire := rfl

/-! ### clearErr -/

@[simp] theorem State.clearErr_arg0 (s : State) : (s.clearErr).arg0 = s.arg0 := rfl
@[simp] theorem State.clearErr_arg1 (s : State) : (s.clearErr).arg1 = s.arg1 := rfl
@[simp] theorem State.clearErr_arg2 (s : State) : (s.clearErr).arg2 = s.arg2 := rfl
@[simp] theorem State.clearErr_res (s : State) : (s.clearErr).res = s.res := rfl
@[simp] theorem State.clearErr_err (s : State) : (s.clearErr).err = 0#32 := rfl
@[simp] theorem State.clearErr_config (s : State) : (s.clearErr).config = s.config := rfl
@[simp] theorem State.clearErr_npix (s : State) : (s.clearErr).npix = s.npix := rfl
@[simp] theorem State.clearErr_paln (s : State) : (s.clearErr).paln = s.paln := rfl
@[simp] theorem State.clearErr_irqStat (s : State) : (s.clearErr).irqStat = s.irqStat := rfl
@[simp] theorem State.clearErr_irqEn (s : State) : (s.clearErr).irqEn = s.irqEn := rfl
@[simp] theorem State.clearErr_frames (s : State) : (s.clearErr).frames = s.frames := rfl
@[simp] theorem State.clearErr_mem (s : State) : (s.clearErr).mem = s.mem := rfl
@[simp] theorem State.clearErr_cfgst (s : State) : (s.clearErr).cfgst = s.cfgst := rfl
@[simp] theorem State.clearErr_encState (s : State) : (s.clearErr).encState = s.encState := rfl
@[simp] theorem State.clearErr_seq (s : State) : (s.clearErr).seq = s.seq := rfl
@[simp] theorem State.clearErr_snap (s : State) : (s.clearErr).snap = s.snap := rfl
@[simp] theorem State.clearErr_gapOk (s : State) : (s.clearErr).gapOk = s.gapOk := rfl
@[simp] theorem State.clearErr_xbuf (s : State) : (s.clearErr).xbuf = s.xbuf := rfl
@[simp] theorem State.clearErr_xlen (s : State) : (s.clearErr).xlen = s.xlen := rfl
@[simp] theorem State.clearErr_held (s : State) : (s.clearErr).held = s.held := rfl
@[simp] theorem State.clearErr_params (s : State) : (s.clearErr).params = s.params := rfl
@[simp] theorem State.clearErr_ramEpoch (s : State) : (s.clearErr).ramEpoch = s.ramEpoch := rfl
@[simp] theorem State.clearErr_draws (s : State) : (s.clearErr).draws = s.draws := rfl
@[simp] theorem State.clearErr_prog (s : State) : (s.clearErr).prog = s.prog := rfl
@[simp] theorem State.clearErr_sched (s : State) : (s.clearErr).sched = s.sched := rfl
@[simp] theorem State.clearErr_passed (s : State) : (s.clearErr).passed = s.passed := rfl
@[simp] theorem State.clearErr_picks (s : State) : (s.clearErr).picks = s.picks := rfl
@[simp] theorem State.clearErr_reads (s : State) : (s.clearErr).reads = s.reads := rfl
@[simp] theorem State.clearErr_wire (s : State) : (s.clearErr).wire = s.wire := rfl

/-! ### emit -/

@[simp] theorem State.emit_arg0 (s : State) (d : Driver) (l : Bool) (t : Nat) : (s.emit d l t).arg0 = s.arg0 := rfl
@[simp] theorem State.emit_arg1 (s : State) (d : Driver) (l : Bool) (t : Nat) : (s.emit d l t).arg1 = s.arg1 := rfl
@[simp] theorem State.emit_arg2 (s : State) (d : Driver) (l : Bool) (t : Nat) : (s.emit d l t).arg2 = s.arg2 := rfl
@[simp] theorem State.emit_res (s : State) (d : Driver) (l : Bool) (t : Nat) : (s.emit d l t).res = s.res := rfl
@[simp] theorem State.emit_err (s : State) (d : Driver) (l : Bool) (t : Nat) : (s.emit d l t).err = s.err := rfl
@[simp] theorem State.emit_config (s : State) (d : Driver) (l : Bool) (t : Nat) : (s.emit d l t).config = s.config := rfl
@[simp] theorem State.emit_npix (s : State) (d : Driver) (l : Bool) (t : Nat) : (s.emit d l t).npix = s.npix := rfl
@[simp] theorem State.emit_paln (s : State) (d : Driver) (l : Bool) (t : Nat) : (s.emit d l t).paln = s.paln := rfl
@[simp] theorem State.emit_irqStat (s : State) (d : Driver) (l : Bool) (t : Nat) : (s.emit d l t).irqStat = s.irqStat := rfl
@[simp] theorem State.emit_irqEn (s : State) (d : Driver) (l : Bool) (t : Nat) : (s.emit d l t).irqEn = s.irqEn := rfl
@[simp] theorem State.emit_frames (s : State) (d : Driver) (l : Bool) (t : Nat) : (s.emit d l t).frames = s.frames := rfl
@[simp] theorem State.emit_mem (s : State) (d : Driver) (l : Bool) (t : Nat) : (s.emit d l t).mem = s.mem := rfl
@[simp] theorem State.emit_cfgst (s : State) (d : Driver) (l : Bool) (t : Nat) : (s.emit d l t).cfgst = s.cfgst := rfl
@[simp] theorem State.emit_encState (s : State) (d : Driver) (l : Bool) (t : Nat) : (s.emit d l t).encState = s.encState := rfl
@[simp] theorem State.emit_seq (s : State) (d : Driver) (l : Bool) (t : Nat) : (s.emit d l t).seq = s.seq := rfl
@[simp] theorem State.emit_snap (s : State) (d : Driver) (l : Bool) (t : Nat) : (s.emit d l t).snap = s.snap := rfl
@[simp] theorem State.emit_gapOk (s : State) (d : Driver) (l : Bool) (t : Nat) : (s.emit d l t).gapOk = s.gapOk := rfl
@[simp] theorem State.emit_xbuf (s : State) (d : Driver) (l : Bool) (t : Nat) : (s.emit d l t).xbuf = s.xbuf := rfl
@[simp] theorem State.emit_xlen (s : State) (d : Driver) (l : Bool) (t : Nat) : (s.emit d l t).xlen = s.xlen := rfl
@[simp] theorem State.emit_held (s : State) (d : Driver) (l : Bool) (t : Nat) : (s.emit d l t).held = s.held := rfl
@[simp] theorem State.emit_params (s : State) (d : Driver) (l : Bool) (t : Nat) : (s.emit d l t).params = s.params := rfl
@[simp] theorem State.emit_ramEpoch (s : State) (d : Driver) (l : Bool) (t : Nat) : (s.emit d l t).ramEpoch = s.ramEpoch := rfl
@[simp] theorem State.emit_draws (s : State) (d : Driver) (l : Bool) (t : Nat) : (s.emit d l t).draws = s.draws := rfl
@[simp] theorem State.emit_prog (s : State) (d : Driver) (l : Bool) (t : Nat) : (s.emit d l t).prog = s.prog := rfl
@[simp] theorem State.emit_sched (s : State) (d : Driver) (l : Bool) (t : Nat) : (s.emit d l t).sched = s.sched := rfl
@[simp] theorem State.emit_passed (s : State) (d : Driver) (l : Bool) (t : Nat) : (s.emit d l t).passed = s.passed := rfl
@[simp] theorem State.emit_picks (s : State) (d : Driver) (l : Bool) (t : Nat) : (s.emit d l t).picks = s.picks := rfl
@[simp] theorem State.emit_reads (s : State) (d : Driver) (l : Bool) (t : Nat) : (s.emit d l t).reads = s.reads := rfl
@[simp] theorem State.emit_wire (s : State) (d : Driver) (l : Bool) (t : Nat) : (s.emit d l t).wire = s.wire ++ [{ driver := d, level := l, ticks := t }] := rfl

/-! ### observe -/

@[simp] theorem State.observe_arg0 (s : State) (v : Word) : (s.observe v).arg0 = s.arg0 := rfl
@[simp] theorem State.observe_arg1 (s : State) (v : Word) : (s.observe v).arg1 = s.arg1 := rfl
@[simp] theorem State.observe_arg2 (s : State) (v : Word) : (s.observe v).arg2 = s.arg2 := rfl
@[simp] theorem State.observe_res (s : State) (v : Word) : (s.observe v).res = s.res := rfl
@[simp] theorem State.observe_err (s : State) (v : Word) : (s.observe v).err = s.err := rfl
@[simp] theorem State.observe_config (s : State) (v : Word) : (s.observe v).config = s.config := rfl
@[simp] theorem State.observe_npix (s : State) (v : Word) : (s.observe v).npix = s.npix := rfl
@[simp] theorem State.observe_paln (s : State) (v : Word) : (s.observe v).paln = s.paln := rfl
@[simp] theorem State.observe_irqStat (s : State) (v : Word) : (s.observe v).irqStat = s.irqStat := rfl
@[simp] theorem State.observe_irqEn (s : State) (v : Word) : (s.observe v).irqEn = s.irqEn := rfl
@[simp] theorem State.observe_frames (s : State) (v : Word) : (s.observe v).frames = s.frames := rfl
@[simp] theorem State.observe_mem (s : State) (v : Word) : (s.observe v).mem = s.mem := rfl
@[simp] theorem State.observe_cfgst (s : State) (v : Word) : (s.observe v).cfgst = s.cfgst := rfl
@[simp] theorem State.observe_encState (s : State) (v : Word) : (s.observe v).encState = s.encState := rfl
@[simp] theorem State.observe_seq (s : State) (v : Word) : (s.observe v).seq = s.seq := rfl
@[simp] theorem State.observe_snap (s : State) (v : Word) : (s.observe v).snap = s.snap := rfl
@[simp] theorem State.observe_gapOk (s : State) (v : Word) : (s.observe v).gapOk = s.gapOk := rfl
@[simp] theorem State.observe_xbuf (s : State) (v : Word) : (s.observe v).xbuf = s.xbuf := rfl
@[simp] theorem State.observe_xlen (s : State) (v : Word) : (s.observe v).xlen = s.xlen := rfl
@[simp] theorem State.observe_held (s : State) (v : Word) : (s.observe v).held = s.held := rfl
@[simp] theorem State.observe_params (s : State) (v : Word) : (s.observe v).params = s.params := rfl
@[simp] theorem State.observe_ramEpoch (s : State) (v : Word) : (s.observe v).ramEpoch = s.ramEpoch := rfl
@[simp] theorem State.observe_draws (s : State) (v : Word) : (s.observe v).draws = s.draws := rfl
@[simp] theorem State.observe_prog (s : State) (v : Word) : (s.observe v).prog = s.prog := rfl
@[simp] theorem State.observe_sched (s : State) (v : Word) : (s.observe v).sched = s.sched := rfl
@[simp] theorem State.observe_passed (s : State) (v : Word) : (s.observe v).passed = s.passed := rfl
@[simp] theorem State.observe_picks (s : State) (v : Word) : (s.observe v).picks = s.picks := rfl
@[simp] theorem State.observe_reads (s : State) (v : Word) : (s.observe v).reads = s.reads ++ [v] := rfl
@[simp] theorem State.observe_wire (s : State) (v : Word) : (s.observe v).wire = s.wire := rfl

/-! ### configure -/

@[simp] theorem State.configure_arg0 (s : State) (w n : Word) : (s.configure w n).arg0 = s.arg0 := rfl
@[simp] theorem State.configure_arg1 (s : State) (w n : Word) : (s.configure w n).arg1 = s.arg1 := rfl
@[simp] theorem State.configure_arg2 (s : State) (w n : Word) : (s.configure w n).arg2 = s.arg2 := rfl
@[simp] theorem State.configure_res (s : State) (w n : Word) : (s.configure w n).res = s.res := rfl
@[simp] theorem State.configure_err (s : State) (w n : Word) : (s.configure w n).err = s.err := rfl
@[simp] theorem State.configure_config (s : State) (w n : Word) : (s.configure w n).config = cfgAccepted w := rfl
@[simp] theorem State.configure_npix (s : State) (w n : Word) : (s.configure w n).npix = n := rfl
@[simp] theorem State.configure_paln (s : State) (w n : Word) : (s.configure w n).paln = s.paln := rfl
@[simp] theorem State.configure_irqStat (s : State) (w n : Word) : (s.configure w n).irqStat = s.irqStat := rfl
@[simp] theorem State.configure_irqEn (s : State) (w n : Word) : (s.configure w n).irqEn = s.irqEn := rfl
@[simp] theorem State.configure_frames (s : State) (w n : Word) : (s.configure w n).frames = s.frames := rfl
@[simp] theorem State.configure_mem (s : State) (w n : Word) : (s.configure w n).mem = s.mem := rfl
@[simp] theorem State.configure_cfgst (s : State) (w n : Word) : (s.configure w n).cfgst = .configured := rfl
@[simp] theorem State.configure_encState (s : State) (w n : Word) : (s.configure w n).encState = s.encState := rfl
@[simp] theorem State.configure_seq (s : State) (w n : Word) : (s.configure w n).seq = s.seq := rfl
@[simp] theorem State.configure_snap (s : State) (w n : Word) : (s.configure w n).snap = s.snap := rfl
@[simp] theorem State.configure_gapOk (s : State) (w n : Word) : (s.configure w n).gapOk = s.gapOk := rfl
@[simp] theorem State.configure_xbuf (s : State) (w n : Word) : (s.configure w n).xbuf = s.xbuf := rfl
@[simp] theorem State.configure_xlen (s : State) (w n : Word) : (s.configure w n).xlen = if cfgStrat w = 1#2 then spiLength s.params (cfgProto w) n.toNat else 0 := rfl
@[simp] theorem State.configure_held (s : State) (w n : Word) : (s.configure w n).held = s.held := rfl
@[simp] theorem State.configure_params (s : State) (w n : Word) : (s.configure w n).params = s.params := rfl
@[simp] theorem State.configure_ramEpoch (s : State) (w n : Word) : (s.configure w n).ramEpoch = s.ramEpoch := rfl
@[simp] theorem State.configure_draws (s : State) (w n : Word) : (s.configure w n).draws = s.draws := rfl
@[simp] theorem State.configure_prog (s : State) (w n : Word) : (s.configure w n).prog = s.prog := rfl
@[simp] theorem State.configure_sched (s : State) (w n : Word) : (s.configure w n).sched = s.sched := rfl
@[simp] theorem State.configure_passed (s : State) (w n : Word) : (s.configure w n).passed = s.passed := rfl
@[simp] theorem State.configure_picks (s : State) (w n : Word) : (s.configure w n).picks = s.picks := rfl
@[simp] theorem State.configure_reads (s : State) (w n : Word) : (s.configure w n).reads = s.reads := rfl
@[simp] theorem State.configure_wire (s : State) (w n : Word) : (s.configure w n).wire = s.wire := rfl

/-! ### acceptShow -/

@[simp] theorem State.acceptShow_arg0 (s : State) : (s.acceptShow).arg0 = s.arg0 := rfl
@[simp] theorem State.acceptShow_arg1 (s : State) : (s.acceptShow).arg1 = s.arg1 := rfl
@[simp] theorem State.acceptShow_arg2 (s : State) : (s.acceptShow).arg2 = s.arg2 := rfl
@[simp] theorem State.acceptShow_res (s : State) : (s.acceptShow).res = s.res := rfl
@[simp] theorem State.acceptShow_err (s : State) : (s.acceptShow).err = s.err := rfl
@[simp] theorem State.acceptShow_config (s : State) : (s.acceptShow).config = s.config := rfl
@[simp] theorem State.acceptShow_npix (s : State) : (s.acceptShow).npix = s.npix := rfl
@[simp] theorem State.acceptShow_paln (s : State) : (s.acceptShow).paln = s.paln := rfl
@[simp] theorem State.acceptShow_irqStat (s : State) : (s.acceptShow).irqStat = s.irqStat := rfl
@[simp] theorem State.acceptShow_irqEn (s : State) : (s.acceptShow).irqEn = s.irqEn := rfl
@[simp] theorem State.acceptShow_frames (s : State) : (s.acceptShow).frames = s.frames := rfl
@[simp] theorem State.acceptShow_mem (s : State) : (s.acceptShow).mem = s.mem := rfl
@[simp] theorem State.acceptShow_cfgst (s : State) : (s.acceptShow).cfgst = s.cfgst := rfl
@[simp] theorem State.acceptShow_encState (s : State) : (s.acceptShow).encState = .tx := rfl
@[simp] theorem State.acceptShow_seq (s : State) : (s.acceptShow).seq = 0 := rfl
@[simp] theorem State.acceptShow_snap (s : State) : (s.acceptShow).snap = s.takeSnap := rfl
@[simp] theorem State.acceptShow_gapOk (s : State) : (s.acceptShow).gapOk = s.gapOk := rfl
@[simp] theorem State.acceptShow_xbuf (s : State) : (s.acceptShow).xbuf = if isSpi s.config then xbufOf s.params s.takeSnap else s.xbuf := rfl
@[simp] theorem State.acceptShow_xlen (s : State) : (s.acceptShow).xlen = s.xlen := rfl
@[simp] theorem State.acceptShow_held (s : State) : (s.acceptShow).held = if cfgAsync s.config then .empty else .blockingShow := rfl
@[simp] theorem State.acceptShow_params (s : State) : (s.acceptShow).params = s.params := rfl
@[simp] theorem State.acceptShow_ramEpoch (s : State) : (s.acceptShow).ramEpoch = s.ramEpoch := rfl
@[simp] theorem State.acceptShow_draws (s : State) : (s.acceptShow).draws = s.draws + 1 := rfl
@[simp] theorem State.acceptShow_prog (s : State) : (s.acceptShow).prog = s.prog := rfl
@[simp] theorem State.acceptShow_sched (s : State) : (s.acceptShow).sched = s.sched := rfl
@[simp] theorem State.acceptShow_passed (s : State) : (s.acceptShow).passed = s.passed := rfl
@[simp] theorem State.acceptShow_picks (s : State) : (s.acceptShow).picks = s.picks := rfl
@[simp] theorem State.acceptShow_reads (s : State) : (s.acceptShow).reads = s.reads := rfl
@[simp] theorem State.acceptShow_wire (s : State) : (s.acceptShow).wire = s.wire ++ [{ driver := .idle, level := false, ticks := Config.draw s.draws }] := rfl

/-! ### frameEnd -/

@[simp] theorem State.frameEnd_arg0 (s : State) : (s.frameEnd).arg0 = s.arg0 := rfl
@[simp] theorem State.frameEnd_arg1 (s : State) : (s.frameEnd).arg1 = s.arg1 := rfl
@[simp] theorem State.frameEnd_arg2 (s : State) : (s.frameEnd).arg2 = s.arg2 := rfl
@[simp] theorem State.frameEnd_res (s : State) : (s.frameEnd).res = s.res := rfl
@[simp] theorem State.frameEnd_err (s : State) : (s.frameEnd).err = s.err := rfl
@[simp] theorem State.frameEnd_config (s : State) : (s.frameEnd).config = s.config := rfl
@[simp] theorem State.frameEnd_npix (s : State) : (s.frameEnd).npix = s.npix := rfl
@[simp] theorem State.frameEnd_paln (s : State) : (s.frameEnd).paln = s.paln := rfl
@[simp] theorem State.frameEnd_irqStat (s : State) : (s.frameEnd).irqStat = s.irqStat ||| 1#32 := rfl
@[simp] theorem State.frameEnd_irqEn (s : State) : (s.frameEnd).irqEn = s.irqEn := rfl
@[simp] theorem State.frameEnd_frames (s : State) : (s.frameEnd).frames = s.frames + 1#32 := rfl
@[simp] theorem State.frameEnd_mem (s : State) : (s.frameEnd).mem = s.mem := rfl
@[simp] theorem State.frameEnd_cfgst (s : State) : (s.frameEnd).cfgst = s.cfgst := rfl
@[simp] theorem State.frameEnd_encState (s : State) : (s.frameEnd).encState = .idle := rfl
@[simp] theorem State.frameEnd_seq (s : State) : (s.frameEnd).seq = s.seq := rfl
@[simp] theorem State.frameEnd_snap (s : State) : (s.frameEnd).snap = s.snap := rfl
@[simp] theorem State.frameEnd_gapOk (s : State) : (s.frameEnd).gapOk = isSpi s.snap.config := rfl
@[simp] theorem State.frameEnd_xbuf (s : State) : (s.frameEnd).xbuf = s.xbuf := rfl
@[simp] theorem State.frameEnd_xlen (s : State) : (s.frameEnd).xlen = s.xlen := rfl
@[simp] theorem State.frameEnd_held (s : State) : (s.frameEnd).held = if s.held = .blockingShow then .empty else s.held := rfl
@[simp] theorem State.frameEnd_params (s : State) : (s.frameEnd).params = s.params := rfl
@[simp] theorem State.frameEnd_ramEpoch (s : State) : (s.frameEnd).ramEpoch = s.ramEpoch := rfl
@[simp] theorem State.frameEnd_draws (s : State) : (s.frameEnd).draws = s.draws := rfl
@[simp] theorem State.frameEnd_prog (s : State) : (s.frameEnd).prog = s.prog := rfl
@[simp] theorem State.frameEnd_sched (s : State) : (s.frameEnd).sched = s.sched := rfl
@[simp] theorem State.frameEnd_passed (s : State) : (s.frameEnd).passed = s.passed := rfl
@[simp] theorem State.frameEnd_picks (s : State) : (s.frameEnd).picks = s.picks := rfl
@[simp] theorem State.frameEnd_reads (s : State) : (s.frameEnd).reads = s.reads := rfl
@[simp] theorem State.frameEnd_wire (s : State) : (s.frameEnd).wire = s.wire := rfl

/-! ### gapStep -/

@[simp] theorem State.gapStep_arg0 (s : State) : (s.gapStep).arg0 = s.arg0 := rfl
@[simp] theorem State.gapStep_arg1 (s : State) : (s.gapStep).arg1 = s.arg1 := rfl
@[simp] theorem State.gapStep_arg2 (s : State) : (s.gapStep).arg2 = s.arg2 := rfl
@[simp] theorem State.gapStep_res (s : State) : (s.gapStep).res = s.res := rfl
@[simp] theorem State.gapStep_err (s : State) : (s.gapStep).err = s.err := rfl
@[simp] theorem State.gapStep_config (s : State) : (s.gapStep).config = s.config := rfl
@[simp] theorem State.gapStep_npix (s : State) : (s.gapStep).npix = s.npix := rfl
@[simp] theorem State.gapStep_paln (s : State) : (s.gapStep).paln = s.paln := rfl
@[simp] theorem State.gapStep_irqStat (s : State) : (s.gapStep).irqStat = s.irqStat := rfl
@[simp] theorem State.gapStep_irqEn (s : State) : (s.gapStep).irqEn = s.irqEn := rfl
@[simp] theorem State.gapStep_frames (s : State) : (s.gapStep).frames = s.frames := rfl
@[simp] theorem State.gapStep_mem (s : State) : (s.gapStep).mem = s.mem := rfl
@[simp] theorem State.gapStep_cfgst (s : State) : (s.gapStep).cfgst = s.cfgst := rfl
@[simp] theorem State.gapStep_encState (s : State) : (s.gapStep).encState = s.encState := rfl
@[simp] theorem State.gapStep_seq (s : State) : (s.gapStep).seq = s.seq := rfl
@[simp] theorem State.gapStep_snap (s : State) : (s.gapStep).snap = s.snap := rfl
@[simp] theorem State.gapStep_gapOk (s : State) : (s.gapStep).gapOk = true := rfl
@[simp] theorem State.gapStep_xbuf (s : State) : (s.gapStep).xbuf = s.xbuf := rfl
@[simp] theorem State.gapStep_xlen (s : State) : (s.gapStep).xlen = s.xlen := rfl
@[simp] theorem State.gapStep_held (s : State) : (s.gapStep).held = s.held := rfl
@[simp] theorem State.gapStep_params (s : State) : (s.gapStep).params = s.params := rfl
@[simp] theorem State.gapStep_ramEpoch (s : State) : (s.gapStep).ramEpoch = s.ramEpoch := rfl
@[simp] theorem State.gapStep_draws (s : State) : (s.gapStep).draws = s.draws := rfl
@[simp] theorem State.gapStep_prog (s : State) : (s.gapStep).prog = s.prog := rfl
@[simp] theorem State.gapStep_sched (s : State) : (s.gapStep).sched = s.sched := rfl
@[simp] theorem State.gapStep_passed (s : State) : (s.gapStep).passed = s.passed := rfl
@[simp] theorem State.gapStep_picks (s : State) : (s.gapStep).picks = s.picks := rfl
@[simp] theorem State.gapStep_reads (s : State) : (s.gapStep).reads = s.reads := rfl
@[simp] theorem State.gapStep_wire (s : State) : (s.gapStep).wire = s.wire ++ [{ driver := .idle, level := false, ticks := s.params.resetTicks }] := rfl

/-! ### presentCommand -/

@[simp] theorem State.presentCommand_arg0 (s : State) (w : Word) : (s.presentCommand w).arg0 = s.arg0 := rfl
@[simp] theorem State.presentCommand_arg1 (s : State) (w : Word) : (s.presentCommand w).arg1 = s.arg1 := rfl
@[simp] theorem State.presentCommand_arg2 (s : State) (w : Word) : (s.presentCommand w).arg2 = s.arg2 := rfl
@[simp] theorem State.presentCommand_res (s : State) (w : Word) : (s.presentCommand w).res = s.res := rfl
@[simp] theorem State.presentCommand_err (s : State) (w : Word) : (s.presentCommand w).err = s.err := rfl
@[simp] theorem State.presentCommand_config (s : State) (w : Word) : (s.presentCommand w).config = s.config := rfl
@[simp] theorem State.presentCommand_npix (s : State) (w : Word) : (s.presentCommand w).npix = s.npix := rfl
@[simp] theorem State.presentCommand_paln (s : State) (w : Word) : (s.presentCommand w).paln = s.paln := rfl
@[simp] theorem State.presentCommand_irqStat (s : State) (w : Word) : (s.presentCommand w).irqStat = s.irqStat := rfl
@[simp] theorem State.presentCommand_irqEn (s : State) (w : Word) : (s.presentCommand w).irqEn = s.irqEn := rfl
@[simp] theorem State.presentCommand_frames (s : State) (w : Word) : (s.presentCommand w).frames = s.frames := rfl
@[simp] theorem State.presentCommand_mem (s : State) (w : Word) : (s.presentCommand w).mem = s.mem := rfl
@[simp] theorem State.presentCommand_cfgst (s : State) (w : Word) : (s.presentCommand w).cfgst = s.cfgst := rfl
@[simp] theorem State.presentCommand_encState (s : State) (w : Word) : (s.presentCommand w).encState = s.encState := rfl
@[simp] theorem State.presentCommand_seq (s : State) (w : Word) : (s.presentCommand w).seq = s.seq := rfl
@[simp] theorem State.presentCommand_snap (s : State) (w : Word) : (s.presentCommand w).snap = s.snap := rfl
@[simp] theorem State.presentCommand_gapOk (s : State) (w : Word) : (s.presentCommand w).gapOk = s.gapOk := rfl
@[simp] theorem State.presentCommand_xbuf (s : State) (w : Word) : (s.presentCommand w).xbuf = s.xbuf := rfl
@[simp] theorem State.presentCommand_xlen (s : State) (w : Word) : (s.presentCommand w).xlen = s.xlen := rfl
@[simp] theorem State.presentCommand_held (s : State) (w : Word) : (s.presentCommand w).held = .empty := rfl
@[simp] theorem State.presentCommand_params (s : State) (w : Word) : (s.presentCommand w).params = s.params := rfl
@[simp] theorem State.presentCommand_ramEpoch (s : State) (w : Word) : (s.presentCommand w).ramEpoch = s.ramEpoch := rfl
@[simp] theorem State.presentCommand_draws (s : State) (w : Word) : (s.presentCommand w).draws = s.draws := rfl
@[simp] theorem State.presentCommand_prog (s : State) (w : Word) : (s.presentCommand w).prog = .access (cmdWrite w) :: s.prog := rfl
@[simp] theorem State.presentCommand_sched (s : State) (w : Word) : (s.presentCommand w).sched = .host :: s.sched := rfl
@[simp] theorem State.presentCommand_passed (s : State) (w : Word) : (s.presentCommand w).passed = s.passed := rfl
@[simp] theorem State.presentCommand_picks (s : State) (w : Word) : (s.presentCommand w).picks = s.picks := rfl
@[simp] theorem State.presentCommand_reads (s : State) (w : Word) : (s.presentCommand w).reads = s.reads := rfl
@[simp] theorem State.presentCommand_wire (s : State) (w : Word) : (s.presentCommand w).wire = s.wire := rfl

/-! ### reset -/

@[simp] theorem State.reset_arg0 : State.reset.arg0 = 0#32 := rfl
@[simp] theorem State.reset_arg1 : State.reset.arg1 = 0#32 := rfl
@[simp] theorem State.reset_arg2 : State.reset.arg2 = 0#32 := rfl
@[simp] theorem State.reset_res : State.reset.res = 0#32 := rfl
@[simp] theorem State.reset_err : State.reset.err = 0#32 := rfl
@[simp] theorem State.reset_config : State.reset.config = 0#32 := rfl
@[simp] theorem State.reset_npix : State.reset.npix = 0#32 := rfl
@[simp] theorem State.reset_paln : State.reset.paln = 0#32 := rfl
@[simp] theorem State.reset_irqStat : State.reset.irqStat = 0#32 := rfl
@[simp] theorem State.reset_irqEn : State.reset.irqEn = 0#32 := rfl
@[simp] theorem State.reset_frames : State.reset.frames = 0#32 := rfl
@[simp] theorem State.reset_mem : State.reset.mem = [] := rfl
@[simp] theorem State.reset_cfgst : State.reset.cfgst = .unconfigured := rfl
@[simp] theorem State.reset_encState : State.reset.encState = .idle := rfl
@[simp] theorem State.reset_seq : State.reset.seq = 0 := rfl
@[simp] theorem State.reset_snap : State.reset.snap = { pixels := [], config := 0#32, npix := 0#32 } := rfl
@[simp] theorem State.reset_gapOk : State.reset.gapOk = false := rfl
@[simp] theorem State.reset_xbuf : State.reset.xbuf = [] := rfl
@[simp] theorem State.reset_xlen : State.reset.xlen = 0 := rfl
@[simp] theorem State.reset_held : State.reset.held = .empty := rfl
@[simp] theorem State.reset_params : State.reset.params = Params.default := rfl
@[simp] theorem State.reset_ramEpoch : State.reset.ramEpoch = 0 := rfl
@[simp] theorem State.reset_draws : State.reset.draws = 1 := rfl
@[simp] theorem State.reset_prog : State.reset.prog = [] := rfl
@[simp] theorem State.reset_sched : State.reset.sched = [] := rfl
@[simp] theorem State.reset_passed : State.reset.passed = 0 := rfl
@[simp] theorem State.reset_picks : State.reset.picks = 0 := rfl
@[simp] theorem State.reset_reads : State.reset.reads = [] := rfl
@[simp] theorem State.reset_wire : State.reset.wire = [] := rfl

/-! ### applyReset -/

@[simp] theorem State.applyReset_arg0 (s : State) : s.applyReset.arg0 = 0#32 := rfl
@[simp] theorem State.applyReset_arg1 (s : State) : s.applyReset.arg1 = 0#32 := rfl
@[simp] theorem State.applyReset_arg2 (s : State) : s.applyReset.arg2 = 0#32 := rfl
@[simp] theorem State.applyReset_res (s : State) : s.applyReset.res = 0#32 := rfl
@[simp] theorem State.applyReset_err (s : State) : s.applyReset.err = 0#32 := rfl
@[simp] theorem State.applyReset_config (s : State) : s.applyReset.config = 0#32 := rfl
@[simp] theorem State.applyReset_npix (s : State) : s.applyReset.npix = 0#32 := rfl
@[simp] theorem State.applyReset_paln (s : State) : s.applyReset.paln = 0#32 := rfl
@[simp] theorem State.applyReset_irqStat (s : State) : s.applyReset.irqStat = 0#32 := rfl
@[simp] theorem State.applyReset_irqEn (s : State) : s.applyReset.irqEn = 0#32 := rfl
@[simp] theorem State.applyReset_frames (s : State) : s.applyReset.frames = 0#32 := rfl
@[simp] theorem State.applyReset_mem (s : State) : s.applyReset.mem = [] := rfl
@[simp] theorem State.applyReset_cfgst (s : State) : s.applyReset.cfgst = .unconfigured := rfl
@[simp] theorem State.applyReset_encState (s : State) : s.applyReset.encState = .idle := rfl
@[simp] theorem State.applyReset_seq (s : State) : s.applyReset.seq = 0 := rfl
@[simp] theorem State.applyReset_snap (s : State) : s.applyReset.snap = { pixels := [], config := 0#32, npix := 0#32 } := rfl
@[simp] theorem State.applyReset_gapOk (s : State) : s.applyReset.gapOk = false := rfl
@[simp] theorem State.applyReset_xbuf (s : State) : s.applyReset.xbuf = [] := rfl
@[simp] theorem State.applyReset_xlen (s : State) : s.applyReset.xlen = 0 := rfl
@[simp] theorem State.applyReset_held (s : State) : s.applyReset.held = .empty := rfl
@[simp] theorem State.applyReset_params (s : State) : s.applyReset.params = s.params := rfl
@[simp] theorem State.applyReset_ramEpoch (s : State) : s.applyReset.ramEpoch = s.draws := rfl
@[simp] theorem State.applyReset_draws (s : State) : s.applyReset.draws = s.draws + 2 := rfl
@[simp] theorem State.applyReset_prog (s : State) : s.applyReset.prog = s.prog := rfl
@[simp] theorem State.applyReset_sched (s : State) : s.applyReset.sched = s.sched := rfl
@[simp] theorem State.applyReset_passed (s : State) : s.applyReset.passed = s.passed := rfl
@[simp] theorem State.applyReset_picks (s : State) : s.applyReset.picks = s.picks := rfl
@[simp] theorem State.applyReset_reads (s : State) : s.applyReset.reads = s.reads := rfl
@[simp] theorem State.applyReset_wire (s : State) : s.applyReset.wire = s.wire ++ s.resetWave := rfl

/-! ### takeTurn: only the schedule and the turn counters move -/

@[simp] theorem State.takeTurn_arg0 (s : State) : s.takeTurn.arg0 = s.arg0 := by
  unfold State.takeTurn; repeat' split
  all_goals rfl
@[simp] theorem State.takeTurn_arg1 (s : State) : s.takeTurn.arg1 = s.arg1 := by
  unfold State.takeTurn; repeat' split
  all_goals rfl
@[simp] theorem State.takeTurn_arg2 (s : State) : s.takeTurn.arg2 = s.arg2 := by
  unfold State.takeTurn; repeat' split
  all_goals rfl
@[simp] theorem State.takeTurn_res (s : State) : s.takeTurn.res = s.res := by
  unfold State.takeTurn; repeat' split
  all_goals rfl
@[simp] theorem State.takeTurn_err (s : State) : s.takeTurn.err = s.err := by
  unfold State.takeTurn; repeat' split
  all_goals rfl
@[simp] theorem State.takeTurn_config (s : State) : s.takeTurn.config = s.config := by
  unfold State.takeTurn; repeat' split
  all_goals rfl
@[simp] theorem State.takeTurn_npix (s : State) : s.takeTurn.npix = s.npix := by
  unfold State.takeTurn; repeat' split
  all_goals rfl
@[simp] theorem State.takeTurn_paln (s : State) : s.takeTurn.paln = s.paln := by
  unfold State.takeTurn; repeat' split
  all_goals rfl
@[simp] theorem State.takeTurn_irqStat (s : State) : s.takeTurn.irqStat = s.irqStat := by
  unfold State.takeTurn; repeat' split
  all_goals rfl
@[simp] theorem State.takeTurn_irqEn (s : State) : s.takeTurn.irqEn = s.irqEn := by
  unfold State.takeTurn; repeat' split
  all_goals rfl
@[simp] theorem State.takeTurn_frames (s : State) : s.takeTurn.frames = s.frames := by
  unfold State.takeTurn; repeat' split
  all_goals rfl
@[simp] theorem State.takeTurn_mem (s : State) : s.takeTurn.mem = s.mem := by
  unfold State.takeTurn; repeat' split
  all_goals rfl
@[simp] theorem State.takeTurn_cfgst (s : State) : s.takeTurn.cfgst = s.cfgst := by
  unfold State.takeTurn; repeat' split
  all_goals rfl
@[simp] theorem State.takeTurn_encState (s : State) : s.takeTurn.encState = s.encState := by
  unfold State.takeTurn; repeat' split
  all_goals rfl
@[simp] theorem State.takeTurn_seq (s : State) : s.takeTurn.seq = s.seq := by
  unfold State.takeTurn; repeat' split
  all_goals rfl
@[simp] theorem State.takeTurn_snap (s : State) : s.takeTurn.snap = s.snap := by
  unfold State.takeTurn; repeat' split
  all_goals rfl
@[simp] theorem State.takeTurn_gapOk (s : State) : s.takeTurn.gapOk = s.gapOk := by
  unfold State.takeTurn; repeat' split
  all_goals rfl
@[simp] theorem State.takeTurn_xbuf (s : State) : s.takeTurn.xbuf = s.xbuf := by
  unfold State.takeTurn; repeat' split
  all_goals rfl
@[simp] theorem State.takeTurn_xlen (s : State) : s.takeTurn.xlen = s.xlen := by
  unfold State.takeTurn; repeat' split
  all_goals rfl
@[simp] theorem State.takeTurn_held (s : State) : s.takeTurn.held = s.held := by
  unfold State.takeTurn; repeat' split
  all_goals rfl
@[simp] theorem State.takeTurn_params (s : State) : s.takeTurn.params = s.params := by
  unfold State.takeTurn; repeat' split
  all_goals rfl
@[simp] theorem State.takeTurn_ramEpoch (s : State) : s.takeTurn.ramEpoch = s.ramEpoch := by
  unfold State.takeTurn; repeat' split
  all_goals rfl
@[simp] theorem State.takeTurn_draws (s : State) : s.takeTurn.draws = s.draws := by
  unfold State.takeTurn; repeat' split
  all_goals rfl
@[simp] theorem State.takeTurn_prog (s : State) : s.takeTurn.prog = s.prog := by
  unfold State.takeTurn; repeat' split
  all_goals rfl
@[simp] theorem State.takeTurn_reads (s : State) : s.takeTurn.reads = s.reads := by
  unfold State.takeTurn; repeat' split
  all_goals rfl
@[simp] theorem State.takeTurn_wire (s : State) : s.takeTurn.wire = s.wire := by
  unfold State.takeTurn; repeat' split
  all_goals rfl

theorem State.takeTurn_sched (s : State) : s.takeTurn.sched = s.sched.tail := by
  unfold State.takeTurn; split
  · next h => simp [h]
  · next h =>
    repeat' split
    all_goals simp [h]

/-- Where the schedule has ended and both agents have a step, the host moves while the encoder's patience lasts. -/
theorem State.nextTurn_of_both {s : State} (h : s.sched = []) (hb : s.bothEnabled = true) :
    s.nextTurn = if s.passed < Config.patience s.picks then .host else .encoder := by simp [State.nextTurn, h, hb]

/-- Where the schedule has ended and the encoder alone has a step, it moves. -/
theorem State.nextTurn_of_encoder {s : State} (h : s.sched = []) (hh : s.hostEnabled = false) : s.nextTurn = .encoder := by
  simp [State.nextTurn, State.bothEnabled, h, hh]

/-- Where the schedule has ended and the host alone has a step, it moves. -/
theorem State.nextTurn_of_host {s : State} (h : s.sched = []) (hh : s.hostEnabled = true) (he : s.encoderEnabled = false) :
    s.nextTurn = .host := by simp [State.nextTurn, State.bothEnabled, h, hh, he]

/-- A host step passes the waiting encoder over once. -/
theorem State.takeTurn_of_patience {s : State} (h : s.sched = []) (hb : s.bothEnabled = true)
    (hp : s.passed < Config.patience s.picks) : s.takeTurn = { s with passed := s.passed + 1 } := by
  simp [State.takeTurn, h, hb, hp]

/-! ### fillPixels: only memory changes -/

@[simp] theorem State.fillPixels_arg0 (f : Nat → Word) (n : Nat) (s : State) : (State.fillPixels f n s).arg0 = s.arg0 := by
  induction n with
  | zero => rfl
  | succ n ih => exact ih
@[simp] theorem State.fillPixels_arg1 (f : Nat → Word) (n : Nat) (s : State) : (State.fillPixels f n s).arg1 = s.arg1 := by
  induction n with
  | zero => rfl
  | succ n ih => exact ih
@[simp] theorem State.fillPixels_arg2 (f : Nat → Word) (n : Nat) (s : State) : (State.fillPixels f n s).arg2 = s.arg2 := by
  induction n with
  | zero => rfl
  | succ n ih => exact ih
@[simp] theorem State.fillPixels_res (f : Nat → Word) (n : Nat) (s : State) : (State.fillPixels f n s).res = s.res := by
  induction n with
  | zero => rfl
  | succ n ih => exact ih
@[simp] theorem State.fillPixels_err (f : Nat → Word) (n : Nat) (s : State) : (State.fillPixels f n s).err = s.err := by
  induction n with
  | zero => rfl
  | succ n ih => exact ih
@[simp] theorem State.fillPixels_config (f : Nat → Word) (n : Nat) (s : State) : (State.fillPixels f n s).config = s.config := by
  induction n with
  | zero => rfl
  | succ n ih => exact ih
@[simp] theorem State.fillPixels_npix (f : Nat → Word) (n : Nat) (s : State) : (State.fillPixels f n s).npix = s.npix := by
  induction n with
  | zero => rfl
  | succ n ih => exact ih
@[simp] theorem State.fillPixels_paln (f : Nat → Word) (n : Nat) (s : State) : (State.fillPixels f n s).paln = s.paln := by
  induction n with
  | zero => rfl
  | succ n ih => exact ih
@[simp] theorem State.fillPixels_irqStat (f : Nat → Word) (n : Nat) (s : State) : (State.fillPixels f n s).irqStat = s.irqStat := by
  induction n with
  | zero => rfl
  | succ n ih => exact ih
@[simp] theorem State.fillPixels_irqEn (f : Nat → Word) (n : Nat) (s : State) : (State.fillPixels f n s).irqEn = s.irqEn := by
  induction n with
  | zero => rfl
  | succ n ih => exact ih
@[simp] theorem State.fillPixels_frames (f : Nat → Word) (n : Nat) (s : State) : (State.fillPixels f n s).frames = s.frames := by
  induction n with
  | zero => rfl
  | succ n ih => exact ih
@[simp] theorem State.fillPixels_cfgst (f : Nat → Word) (n : Nat) (s : State) : (State.fillPixels f n s).cfgst = s.cfgst := by
  induction n with
  | zero => rfl
  | succ n ih => exact ih
@[simp] theorem State.fillPixels_encState (f : Nat → Word) (n : Nat) (s : State) : (State.fillPixels f n s).encState = s.encState := by
  induction n with
  | zero => rfl
  | succ n ih => exact ih
@[simp] theorem State.fillPixels_seq (f : Nat → Word) (n : Nat) (s : State) : (State.fillPixels f n s).seq = s.seq := by
  induction n with
  | zero => rfl
  | succ n ih => exact ih
@[simp] theorem State.fillPixels_snap (f : Nat → Word) (n : Nat) (s : State) : (State.fillPixels f n s).snap = s.snap := by
  induction n with
  | zero => rfl
  | succ n ih => exact ih
@[simp] theorem State.fillPixels_gapOk (f : Nat → Word) (n : Nat) (s : State) : (State.fillPixels f n s).gapOk = s.gapOk := by
  induction n with
  | zero => rfl
  | succ n ih => exact ih
@[simp] theorem State.fillPixels_xbuf (f : Nat → Word) (n : Nat) (s : State) : (State.fillPixels f n s).xbuf = s.xbuf := by
  induction n with
  | zero => rfl
  | succ n ih => exact ih
@[simp] theorem State.fillPixels_xlen (f : Nat → Word) (n : Nat) (s : State) : (State.fillPixels f n s).xlen = s.xlen := by
  induction n with
  | zero => rfl
  | succ n ih => exact ih
@[simp] theorem State.fillPixels_held (f : Nat → Word) (n : Nat) (s : State) : (State.fillPixels f n s).held = s.held := by
  induction n with
  | zero => rfl
  | succ n ih => exact ih
@[simp] theorem State.fillPixels_params (f : Nat → Word) (n : Nat) (s : State) : (State.fillPixels f n s).params = s.params := by
  induction n with
  | zero => rfl
  | succ n ih => exact ih
@[simp] theorem State.fillPixels_ramEpoch (f : Nat → Word) (n : Nat) (s : State) : (State.fillPixels f n s).ramEpoch = s.ramEpoch := by
  induction n with
  | zero => rfl
  | succ n ih => exact ih
@[simp] theorem State.fillPixels_draws (f : Nat → Word) (n : Nat) (s : State) : (State.fillPixels f n s).draws = s.draws := by
  induction n with
  | zero => rfl
  | succ n ih => exact ih
@[simp] theorem State.fillPixels_prog (f : Nat → Word) (n : Nat) (s : State) : (State.fillPixels f n s).prog = s.prog := by
  induction n with
  | zero => rfl
  | succ n ih => exact ih
@[simp] theorem State.fillPixels_sched (f : Nat → Word) (n : Nat) (s : State) : (State.fillPixels f n s).sched = s.sched := by
  induction n with
  | zero => rfl
  | succ n ih => exact ih
@[simp] theorem State.fillPixels_passed (f : Nat → Word) (n : Nat) (s : State) : (State.fillPixels f n s).passed = s.passed := by
  induction n with
  | zero => rfl
  | succ n ih => exact ih
@[simp] theorem State.fillPixels_picks (f : Nat → Word) (n : Nat) (s : State) : (State.fillPixels f n s).picks = s.picks := by
  induction n with
  | zero => rfl
  | succ n ih => exact ih
@[simp] theorem State.fillPixels_reads (f : Nat → Word) (n : Nat) (s : State) : (State.fillPixels f n s).reads = s.reads := by
  induction n with
  | zero => rfl
  | succ n ih => exact ih
@[simp] theorem State.fillPixels_wire (f : Nat → Word) (n : Nat) (s : State) : (State.fillPixels f n s).wire = s.wire := by
  induction n with
  | zero => rfl
  | succ n ih => exact ih

end Sys2Proof.Machine
end

