-- ==== Sys2Proof/Laws/Errors.lean ====
section
/-! SUPPORT. The ERR word: its fields after recording an error (60_exceptions.md R283). -/

namespace Sys2Proof.Machine

/-- Bit `i` of ERR with its CODE, OPC and ACC fields set. -/
theorem errSet_getLsbD (e : Word) (c o : Byte) (a : Bool) (i : Nat) : (errSet e c o a).getLsbD i =
    if i < 8 then c.getLsbD i else if i < 16 then e.getLsbD i else if i < 24 then o.getLsbD (i - 16)
    else if i = 24 then a else e.getLsbD i := by
  simp only [errSet, BitVec.getLsbD_append, BitVec.getLsbD_extractLsb', BitVec.getLsbD_ofBool]
  by_cases h1 : i < 8
  · simp only [h1, if_true]
  by_cases h2 : i < 16
  · have : i - 8 < 8 := by omega
    have h3 : 8 + (i - 8) = i := by omega
    simp only [h1, h2, this, h3, if_true, if_false, decide_true, Bool.true_and]
  by_cases h3 : i < 24
  · have a1 : ¬ i - 8 < 8 := by omega
    have a2 : i - 8 - 8 < 8 := by omega
    have a3 : i - 8 - 8 = i - 16 := by omega
    rw [if_neg h1, if_neg a1, if_pos a2, if_neg h1, if_neg h2, if_pos h3, a3]
  by_cases h4 : i = 24
  · subst h4; simp
  · have a1 : ¬ i - 8 < 8 := by omega
    have a2 : ¬ i - 8 - 8 < 8 := by omega
    have a3 : ¬ i - 8 - 8 - 8 < 1 := by omega
    have a4 : 25 + (i - 8 - 8 - 8 - 1) = i := by omega
    rw [if_neg h1, if_neg a1, if_neg a2, if_neg a3, if_neg h1, if_neg h2, if_neg h3, if_neg h4, a4]
    by_cases h5 : i < 32
    · have : i - 8 - 8 - 8 - 1 < 7 := by omega
      simp only [this, decide_true, Bool.true_and]
    · rw [BitVec.getLsbD_of_ge e i (by omega), Bool.and_false]

theorem errSet_code (e : Word) (c o : Byte) (a : Bool) : errCode (errSet e c o a) = c := by
  apply BitVec.eq_of_getLsbD_eq
  intro i hi
  simp only [errCode, BitVec.getLsbD_extractLsb', errSet_getLsbD, Nat.zero_add, hi, decide_true, Bool.true_and, if_true]

theorem errSet_multi (e : Word) (c o : Byte) (a : Bool) : errMulti (errSet e c o a) = errMulti e := by
  simp only [errMulti, errSet_getLsbD]; simp

theorem errSet_opc (e : Word) (c o : Byte) (a : Bool) : errOpc (errSet e c o a) = o := by
  apply BitVec.eq_of_getLsbD_eq
  intro i hi
  have h1 : ¬ 16 + i < 8 := by omega
  have h2 : ¬ 16 + i < 16 := by omega
  have h3 : 16 + i < 24 := by omega
  have h4 : 16 + i - 16 = i := by omega
  simp only [errOpc, BitVec.getLsbD_extractLsb', errSet_getLsbD, h1, h2, h3, h4, hi, decide_true, Bool.true_and, if_true,
    if_false]

theorem errSet_acc (e : Word) (c o : Byte) (a : Bool) : errAcc (errSet e c o a) = a := by
  simp only [errAcc, errSet_getLsbD]; simp

/-- The codes of R281 are never 0. -/
theorem ErrCode.code_ne_zero (c : ErrCode) : c.code ≠ 0#8 := by cases c <;> decide

/-- R283, first error: CODE, OPC and ACC are set. -/
theorem errRecord_first {e : Word} (h : errCode e = 0#8) (c : ErrCode) (o : Byte) (a : Bool) :
    errRecord e c o a = errSet e c.code (if a then 0#8 else o) a := by
  simp [errRecord, h]

/-- R283, a later error: only MULTI is set. -/
theorem errRecord_later {e : Word} (h : errCode e ≠ 0#8) (c : ErrCode) (o : Byte) (a : Bool) :
    errRecord e c o a = e ||| 0x100#32 := by
  simp [errRecord, h]

/-- After recording, ERR.CODE is not 0. -/
theorem errRecord_code_ne_zero (e : Word) (c : ErrCode) (o : Byte) (a : Bool) : errCode (errRecord e c o a) ≠ 0#8 := by
  by_cases h : errCode e = 0#8
  · rw [errRecord_first h, errSet_code]; exact c.code_ne_zero
  · rw [errRecord_later h]
    have : errCode (e ||| 0x100#32) = errCode e := by
      apply BitVec.eq_of_getLsbD_eq
      intro i hi
      have h8 : (0x100#32).getLsbD i = false := by
        rw [show (0x100#32) = BitVec.twoPow 32 8 from rfl, BitVec.getLsbD_twoPow]
        simp; omega
      simp only [errCode, BitVec.getLsbD_extractLsb', BitVec.getLsbD_or, Nat.zero_add, h8, Bool.or_false]
    rwa [this]

end Sys2Proof.Machine
end

