-- ==== Sys2Proof/Laws/Memory.lean ====
section
/-! SUPPORT. Memory: a read after a write, the canonical form kept by every memory operation, and the words of the two
RAMs. -/

namespace Sys2Proof.Machine

/-! ### Bytes -/

@[simp] theorem Memory.read_write_same (m : Memory) (a : Nat) (b : Byte) : (m.write a b).read a = some b := by
  induction m with
  | nil => simp [Memory.write, Memory.read]
  | cons h m ih =>
    obtain ⟨x, c⟩ := h
    unfold Memory.write
    split
    · simp [Memory.read]
    · split
      · simp [Memory.read]
      · next h1 h2 => simp [Memory.read, h2, ih]

theorem Memory.read_write_other (m : Memory) {a x : Nat} (b : Byte) (h : x ≠ a) : (m.write a b).read x = m.read x := by
  induction m with
  | nil => simp [Memory.write, Memory.read, h]
  | cons hd m ih =>
    obtain ⟨y, c⟩ := hd
    unfold Memory.write
    split
    · simp [Memory.read, h]
    · split
      · next h2 => subst h2; simp [Memory.read, h]
      · simp only [Memory.read, ih]

/-- Which addresses a write lists. -/
theorem Memory.mem_write {m : Memory} {a : Nat} {b : Byte} {c : Host.Cell} (h : c ∈ m.write a b) : c = (a, b) ∨ c ∈ m := by
  induction m with
  | nil => simpa [Memory.write] using h
  | cons hd m ih =>
    obtain ⟨y, e⟩ := hd
    unfold Memory.write at h
    split at h
    · simpa using h
    · split at h
      · rcases List.mem_cons.1 h with h | h
        · exact .inl h
        · exact .inr (List.mem_cons_of_mem _ h)
      · rcases List.mem_cons.1 h with h | h
        · exact .inr (h ▸ List.mem_cons_self)
        · exact (ih h).imp id (List.mem_cons_of_mem _)

theorem Memory.write_wf {m : Memory} (a : Nat) (b : Byte) (h : m.wf) : (m.write a b).wf := by
  induction m with
  | nil => simp [Memory.write, Memory.wf]
  | cons hd m ih =>
    obtain ⟨y, e⟩ := hd
    rw [Memory.wf, List.pairwise_cons] at h
    obtain ⟨hy, hm⟩ := h
    unfold Memory.write
    split
    · next hlt =>
      refine List.pairwise_cons.2 ⟨fun c hc => ?_, List.pairwise_cons.2 ⟨hy, hm⟩⟩
      rcases List.mem_cons.1 hc with rfl | hc
      · exact hlt
      · exact Nat.lt_trans hlt (hy c hc)
    · split
      · next heq => subst heq; exact List.pairwise_cons.2 ⟨hy, hm⟩
      · next h1 h2 =>
        refine List.pairwise_cons.2 ⟨fun c hc => ?_, ih hm⟩
        rcases Memory.mem_write hc with rfl | hc
        · show y < a; omega
        · exact hy c hc

/-! ### Words -/

theorem Memory.writeWord_wf {m : Memory} (off : Nat) (w : Word) (h : m.wf) : (m.writeWord off w).wf :=
  Memory.write_wf _ _ (Memory.write_wf _ _ (Memory.write_wf _ _ (Memory.write_wf _ _ h)))

/-- Which addresses a word write lists. -/
theorem Memory.mem_writeWord {m : Memory} {off : Nat} {w : Word} {c : Host.Cell} (h : c ∈ m.writeWord off w) :
    (off ≤ c.1 ∧ c.1 < off + 4) ∨ c ∈ m := by
  unfold Memory.writeWord at h
  rcases Memory.mem_write h with rfl | h
  · left; constructor <;> simp
  rcases Memory.mem_write h with rfl | h
  · left; constructor <;> simp
  rcases Memory.mem_write h with rfl | h
  · left; constructor <;> simp
  rcases Memory.mem_write h with rfl | h
  · left; constructor <;> simp
  exact .inr h

theorem Memory.read_writeWord_other (m : Memory) {off x : Nat} (w : Word) (h : x < off ∨ off + 4 ≤ x) :
    (m.writeWord off w).read x = m.read x := by
  unfold Memory.writeWord
  rw [Memory.read_write_other _ _ (by omega), Memory.read_write_other _ _ (by omega),
    Memory.read_write_other _ _ (by omega), Memory.read_write_other _ _ (by omega)]

theorem State.ramByte_setRamWord_other (s : State) {off x : Nat} (w : Word) (h : x < off ∨ off + 4 ≤ x) :
    (s.setRamWord off w).ramByte x = s.ramByte x := by
  simp [State.ramByte, Memory.read_writeWord_other _ _ h]

theorem State.ramWord_setRamWord_same (s : State) (off : Nat) (w : Word) : (s.setRamWord off w).ramWord off = w := by
  have h0 : (s.mem.writeWord off w).read off = some (w.extractLsb' 0 8) := by
    unfold Memory.writeWord
    rw [Memory.read_write_other _ _ (by omega), Memory.read_write_other _ _ (by omega),
      Memory.read_write_other _ _ (by omega), Memory.read_write_same]
  have h1 : (s.mem.writeWord off w).read (off + 1) = some (w.extractLsb' 8 8) := by
    unfold Memory.writeWord
    rw [Memory.read_write_other _ _ (by omega), Memory.read_write_other _ _ (by omega), Memory.read_write_same]
  have h2 : (s.mem.writeWord off w).read (off + 2) = some (w.extractLsb' 16 8) := by
    unfold Memory.writeWord
    rw [Memory.read_write_other _ _ (by omega), Memory.read_write_same]
  have h3 : (s.mem.writeWord off w).read (off + 3) = some (w.extractLsb' 24 8) := by
    unfold Memory.writeWord
    rw [Memory.read_write_same]
  simp only [State.ramWord, State.ramByte, State.setRamWord_mem, State.setRamWord_ramEpoch, h0, h1, h2, h3, Option.getD_some]
  apply BitVec.eq_of_getLsbD_eq
  intro i hi
  simp only [BitVec.getLsbD_append, BitVec.getLsbD_extractLsb']
  by_cases a : i < 8
  · simp [a]
  by_cases b : i - 8 < 8
  · simp [a, b]; congr 1; omega
  by_cases c : i - 8 - 8 < 8
  · simp [a, b, c]; congr 1; omega
  have d : i - 8 - 8 - 8 < 8 := by omega
  simp [a, b, c, d]; congr 1; omega

theorem State.ramWord_setRamWord_other (s : State) {off x : Nat} (w : Word) (h : x + 4 ≤ off ∨ off + 4 ≤ x) :
    (s.setRamWord off w).ramWord x = s.ramWord x := by
  simp only [State.ramWord]
  rw [State.ramByte_setRamWord_other _ _ (by omega), State.ramByte_setRamWord_other _ _ (by omega),
    State.ramByte_setRamWord_other _ _ (by omega), State.ramByte_setRamWord_other _ _ (by omega)]

/-! ### Palette and pixel words -/

@[simp] theorem State.pix_setPix_same (s : State) (i : Nat) (w : Word) : (s.setPix i w).pix i = w :=
  State.ramWord_setRamWord_same s (pixOff i) w

theorem State.pix_setPix_other (s : State) {i j : Nat} (w : Word) (h : j ≠ i) : (s.setPix i w).pix j = s.pix j :=
  State.ramWord_setRamWord_other s w (by unfold pixOff; omega)

@[simp] theorem State.pal_setPal_same (s : State) (i : Nat) (w : Word) : (s.setPal i w).pal i = w :=
  State.ramWord_setRamWord_same s (palOff i) w

theorem State.pal_setPal_other (s : State) {i j : Nat} (w : Word) (h : j ≠ i) : (s.setPal i w).pal j = s.pal j :=
  State.ramWord_setRamWord_other s w (by unfold palOff; omega)

/-- A pixel write leaves the palette alone: the two RAMs do not overlap. -/
theorem State.pal_setPix (s : State) {i j : Nat} (w : Word) (h : j < 256) : (s.setPix i w).pal j = s.pal j :=
  State.ramWord_setRamWord_other s w (by unfold palOff pixOff; omega)

/-- A palette write leaves the pixels alone. -/
theorem State.pix_setPal (s : State) {i j : Nat} (w : Word) (h : i < 256) : (s.setPal i w).pix j = s.pix j :=
  State.ramWord_setRamWord_other s w (by unfold palOff pixOff; omega)

/-! ### fillPixels -/

theorem State.fillPixels_memWf (f : Nat → Word) (n : Nat) (s : State) (h : s.mem.wf) :
    (State.fillPixels f n s).mem.wf := by
  induction n with
  | zero => exact h
  | succ n ih => exact Memory.writeWord_wf _ _ ih

theorem State.mem_fillPixels {f : Nat → Word} {n : Nat} {s : State} {c : Host.Cell}
    (h : c ∈ (State.fillPixels f n s).mem) : (0x1000 ≤ c.1 ∧ c.1 < 0x1000 + 4 * n) ∨ c ∈ s.mem := by
  induction n with
  | zero => exact .inr h
  | succ n ih =>
    rcases Memory.mem_writeWord h with h | h
    · left; unfold pixOff at h; omega
    · rcases ih h with h | h
      · left; omega
      · exact .inr h

theorem State.pix_fillPixels (f : Nat → Word) (n i : Nat) (s : State) :
    (State.fillPixels f n s).pix i = if i < n then f i else s.pix i := by
  induction n with
  | zero => simp [State.fillPixels]
  | succ n ih =>
    rw [State.fillPixels]
    by_cases h : i = n
    · subst h; simp
    · rw [State.pix_setPix_other _ _ h, ih]
      by_cases h2 : i < n
      · simp [h2, Nat.lt_succ_of_lt h2]
      · simp [h2, show ¬ i < n + 1 by omega]

theorem State.ramByte_fillPixels (f : Nat → Word) (n a : Nat) (s : State) (h : a < 0x1000 ∨ 0x1000 + 4 * n ≤ a) :
    (State.fillPixels f n s).ramByte a = s.ramByte a := by
  induction n with
  | zero => rfl
  | succ n ih =>
    rw [State.fillPixels, State.setPix, State.ramByte_setRamWord_other _ _ (by unfold pixOff; omega)]
    exact ih (by omega)

/-! ### Every memory operation keeps the canonical form -/

theorem State.reset_memWf : State.reset.mem.wf := List.Pairwise.nil

theorem State.setRamWord_memWf (s : State) (off : Nat) (w : Word) (h : s.mem.wf) : (s.setRamWord off w).mem.wf :=
  Memory.writeWord_wf _ _ h

end Sys2Proof.Machine
end

