-- ==== Sys2Proof/Laws/Exec.lean ====
section
/-! SUPPORT. Said once: everything a command, a host access, an encoder step and a step of the machine can do. -/

namespace Sys2Proof.Machine

/-! ### Commands -/

/-- What a command can do to the state (40_command_unit.md R130 to R135). -/
inductive CommandEffect (s : State) : State → Prop where
  | unchanged : CommandEffect s s
  | result (v : Word) : CommandEffect s (s.setRes v)
  | drawn (v : Word) : CommandEffect s { s.setRes v with draws := s.draws + 1 }
  | error (c : ErrCode) (opc : Byte) (h : c ≠ .badAccess) : CommandEffect s (s.raise c opc)
  | count (h : 1 ≤ s.arg0.toNat) (hc : s.arg0.toNat ≤ s.params.palCap) : CommandEffect s { s with paln := s.arg0 }
  | cfgError (h : s.encState = .idle) (c : ErrCode) (hc : c ≠ .badAccess) :
      CommandEffect s ({ s with cfgst := .failed }.raise c 0x30#8)
  | configured (h : s.encState = .idle) (hc : cfgCheck s.params s.arg0 s.arg1 = none) :
      CommandEffect s (s.configure s.arg0 s.arg1)
  | heldCfg (h : s.encState = .tx) : CommandEffect s { s with held := .waitingCfg }
  | heldShow (hc : s.cfgst = .configured) (h : s.showReady = false) : CommandEffect s { s with held := .waitingShow }
  | accepted (hc : s.cfgst = .configured) (h : s.showReady = true) : CommandEffect s s.acceptShow
  | filled (hc : s.cfgst = .configured) (f : Nat → Word) : CommandEffect s (State.fillPixels f s.npix.toNat s)

/-- CFG never reports a bus error. -/
theorem cfgCheck_ne_badAccess {p : Params} {w n : Word} {c : ErrCode} (h : cfgCheck p w n = some c) : c ≠ .badAccess := by
  unfold cfgCheck at h
  intro hc; subst hc
  repeat' split at h
  all_goals simp at h

theorem State.cfgReady_eq_true {s : State} : s.cfgReady = true ↔ s.encState = .idle := by simp [State.cfgReady]

/-- Every command answers a next state, and that state is one of `CommandEffect` (40_command_unit.md R131, 60_exceptions.md
R280: a command never stops the block). -/
theorem exec_effect (i : Instr) (s : State) : ∃ t, exec i s = .next t ∧ CommandEffect s t := by
  have hres : ∀ v, CommandEffect s (s.setRes v) := .result
  cases i
  case nop => exact ⟨_, rfl, .unchanged⟩
  case psetn =>
    refine ⟨_, rfl, ?_⟩
    split
    · exact .error _ _ (by decide)
    · next h => exact .count (by omega) (by omega)
  case pgeti =>
    refine ⟨_, rfl, ?_⟩; unfold State.withPalette; split
    · exact .error _ _ (by decide)
    · exact .result _
  case pgetf =>
    refine ⟨_, rfl, ?_⟩; unfold State.withPalette; split
    · exact .error _ _ (by decide)
    · exact .result _
  case prand =>
    refine ⟨_, rfl, ?_⟩; unfold State.withPalette; split
    · exact .error _ _ (by decide)
    · exact .drawn _
  case cfg =>
    refine ⟨_, rfl, ?_⟩
    by_cases h : s.cfgReady = true
    · rw [if_pos h]
      split
      · next e he => exact .cfgError (State.cfgReady_eq_true.1 h) _ (cfgCheck_ne_badAccess he)
      · next he => exact .configured (State.cfgReady_eq_true.1 h) he
    · rw [if_neg h]
      refine .heldCfg ?_
      rw [State.cfgReady_eq_true] at h
      cases hs : s.encState <;> simp_all
  case showFrame =>
    refine ⟨_, rfl, ?_⟩; unfold State.withConfigured; split
    · next hc =>
      split
      · next h => exact .accepted hc h
      · next h => exact .heldShow hc (by simpa using h)
    · exact .error _ _ (by decide)
  case fill =>
    refine ⟨_, rfl, ?_⟩; unfold State.withConfigured; split
    · next hc => exact .filled hc _
    · exact .error _ _ (by decide)
  case pfill =>
    refine ⟨_, rfl, ?_⟩; unfold State.withConfigured; split
    · next hc =>
      split
      · exact .error _ _ (by decide)
      · exact .filled hc _
    · exact .error _ _ (by decide)
  case pixr =>
    refine ⟨_, rfl, ?_⟩; unfold State.withConfigured; split
    · exact .result _
    · exact .error _ _ (by decide)
  all_goals exact ⟨_, rfl, hres _⟩

/-! ### Host accesses -/

/-- What a host access can do to the state (20_memory.md R72 to R76). -/
inductive AccessEffect (s : State) : State → Prop where
  | command {t : State} (h : CommandEffect s t) : AccessEffect s t
  | illegal (opc : Byte) : AccessEffect s (s.raise .illegalCmd opc)
  | bad : AccessEffect s s.badAccess
  | observed (v : Word) : AccessEffect s (s.observe v)
  | badObserved : AccessEffect s (s.badAccess.observe 0#32)
  | clearErr : AccessEffect s s.clearErr
  | arg0 (w : Word) : AccessEffect s { s with arg0 := w }
  | arg1 (w : Word) : AccessEffect s { s with arg1 := w }
  | arg2 (w : Word) : AccessEffect s { s with arg2 := w }
  | irqStat (w : Word) : AccessEffect s { s with irqStat := s.irqStat &&& ~~~(w &&& 1#32) }
  | irqEn (w : Word) : AccessEffect s { s with irqEn := w &&& 3#32 }
  | pal (i : Nat) (w : Word) (h : i < s.params.palCap) : AccessEffect s (s.setPal i w)
  | pix (i : Nat) (w : Word) (h : i < s.params.pixelCap) : AccessEffect s (s.setPix i w)

theorem mapOffset_pal {p : Params} {off i : Nat} (h : mapOffset p off = some (.pal i)) : i < p.palCap := by
  unfold mapOffset at h
  repeat' split at h
  all_goals simp at h
  omega

theorem mapOffset_pix {p : Params} {off i : Nat} (h : mapOffset p off = some (.pix i)) : i < p.pixelCap := by
  unfold mapOffset at h
  repeat' split at h
  all_goals simp at h
  omega

theorem accessTarget_some {p : Params} {a : Access} {t : Target} (h : accessTarget p a = some t) :
    mapOffset p a.off = some t := by
  unfold accessTarget at h
  split at h
  · exact h
  · simp at h

theorem issue_effect (w : Word) (s : State) : ∃ t, issue w s = .next t ∧ AccessEffect s t := by
  unfold issue
  split
  · next i _ =>
    obtain ⟨t, ht, he⟩ := exec_effect i s
    exact ⟨t, ht, .command he⟩
  · exact ⟨_, rfl, .illegal _⟩

/-- Every host access answers a next state, and that state is one of `AccessEffect`. -/
theorem hostAccess_effect (a : Access) (s : State) : ∃ t, hostAccess a s = .next t ∧ AccessEffect s t := by
  unfold hostAccess
  split
  · split
    · exact ⟨_, rfl, .observed _⟩
    · exact ⟨_, rfl, .badObserved⟩
  · split
    · next t ht =>
      cases t with
      | pal i => exact ⟨_, rfl, .pal i _ (mapOffset_pal (accessTarget_some ht))⟩
      | pix i => exact ⟨_, rfl, .pix i _ (mapOffset_pix (accessTarget_some ht))⟩
      | reg r =>
        cases r
        case cmd => exact issue_effect _ _
        case err => exact ⟨_, rfl, .clearErr⟩
        case arg0 => exact ⟨_, rfl, .arg0 _⟩
        case arg1 => exact ⟨_, rfl, .arg1 _⟩
        case arg2 => exact ⟨_, rfl, .arg2 _⟩
        case irqStat => exact ⟨_, rfl, .irqStat _⟩
        case irqEn => exact ⟨_, rfl, .irqEn _⟩
        all_goals exact ⟨_, rfl, .bad⟩
    · exact ⟨_, rfl, .bad⟩

/-! ### The host's move -/

/-- What the host's move can do: nothing, an access with HELD empty, or the held command presented again (40_command_unit.md
R132, R133). -/
inductive HostEffect (s : State) : State → Prop where
  | none : HostEffect s s
  | access {a : Access} {rest : List HostOp} {t : State} (hp : s.prog = .access a :: rest) (hh : s.held = .empty)
      (h : AccessEffect { s with prog := rest } t) : HostEffect s t
  | poll {rest : List HostOp} (hp : s.prog = .waitIdle :: rest) (hh : s.held = .empty) :
      HostEffect s { s.observe s.status with prog := if s.status.getLsbD 0 then s.prog else rest }
  | again {t : State} (hh : s.held = .waitingShow ∨ s.held = .waitingCfg)
      (h : CommandEffect { s with held := .empty } t) : HostEffect s t

/-- A round of WAITIDLE reads STATUS, and ends the loop if BUSY was 0 (30_encoding.md R120). -/
theorem pollStatus_eq (rest : List HostOp) (s : State) :
    pollStatus rest s =
      .next { s.observe s.status with prog := if s.status.getLsbD 0 then s.prog else rest } := by
  have h : ∀ u : State, hostAccess statusRead u = .next (u.observe u.status) := fun _ => rfl
  unfold pollStatus
  rw [h]
  split <;> rfl

theorem hostMove_effect (s : State) : ∃ t, hostMove s = .next t ∧ HostEffect s t := by
  unfold hostMove
  split
  · next hh =>
    split
    · exact ⟨_, rfl, .none⟩
    · next a rest hp =>
      obtain ⟨t, ht, he⟩ := hostAccess_effect a { s with prog := rest }
      exact ⟨t, ht, .access hp hh he⟩
    · next rest hp => exact ⟨_, pollStatus_eq rest s, .poll hp hh⟩
  · next hh =>
    obtain ⟨t, ht, he⟩ := exec_effect .showFrame { s with held := .empty }
    exact ⟨t, ht, .again (.inl hh) he⟩
  · next hh =>
    obtain ⟨t, ht, he⟩ := exec_effect .cfg { s with held := .empty }
    exact ⟨t, ht, .again (.inr hh) he⟩
  · exact ⟨_, rfl, .none⟩

/-! ### The encoder's step -/

/-- What an encoder step can do: a bit inside a frame, the frame's last bit, the gap, or nothing (43_encoder.md R240). -/
inductive EncoderEffect (s : State) : State → Prop where
  | bit (htx : s.encState = .tx) (h : s.seq < s.seqEnd) (hl : s.seq + 1 ≠ s.seqEnd) :
      EncoderEffect s { s with wire := s.wire ++ s.currentWave, seq := s.seq + 1 }
  | last (htx : s.encState = .tx) (hl : s.seq + 1 = s.seqEnd) :
      EncoderEffect s (State.frameEnd { s with wire := s.wire ++ s.currentWave, seq := s.seq + 1 })
  | gap (hi : s.encState = .idle) (hg : s.gapOk = false) : EncoderEffect s s.gapStep
  | none (h : s.encoderEnabled = false) : EncoderEffect s s

/-- GPIO and SPI exclude each other. -/
theorem isGpio_isSpi {w : Word} (h : isGpio w = true) : isSpi w = false := by
  unfold isGpio at h; unfold isSpi
  have h := of_decide_eq_true h
  rw [h]; decide

/-- A bit step is enabled only below the end value of SEQ. -/
theorem State.bitEnabled_lt {s : State} (h : (s.gpioStepEnabled || s.spiStepEnabled) = true) :
    s.encState = .tx ∧ s.seq < s.seqEnd := by
  rcases Bool.or_eq_true_iff.1 h with h | h
  · simp only [State.gpioStepEnabled, Bool.and_eq_true, decide_eq_true_eq] at h
    exact ⟨h.1.1, by simp [State.seqEnd, isGpio_isSpi h.1.2, h.2]⟩
  · simp only [State.spiStepEnabled, Bool.and_eq_true, decide_eq_true_eq] at h
    exact ⟨h.1.1, by simp [State.seqEnd, h.1.2, h.2]⟩

theorem encoderStep_effect (s : State) : EncoderEffect s s.encoderStep := by
  unfold State.encoderStep
  split
  · next h =>
    obtain ⟨htx, hlt⟩ := State.bitEnabled_lt h
    unfold State.bitStep
    by_cases hl : s.seq + 1 = s.seqEnd
    · simp only [hl, if_true]
      have := EncoderEffect.last htx hl
      rwa [hl] at this
    · simp only [hl, if_false]; exact .bit htx hlt hl
  · next h =>
    split
    · next hg =>
      simp only [State.gapStepEnabled, Bool.and_eq_true, decide_eq_true_eq, Bool.not_eq_true'] at hg
      exact .gap hg.1 hg.2
    · next hg => exact .none (by simp_all [State.encoderEnabled])

/-! ### A step of the machine -/

/-- What a step can do to the state it finds after the turn is taken. -/
inductive TurnEffect (s : State) : State → Prop where
  | host {t : State} (h : HostEffect s t) : TurnEffect s t
  | encoder {t : State} (h : EncoderEffect s t) : TurnEffect s t
  | reset : TurnEffect s s.applyReset

/-- The outcome of a turn: a next state of `TurnEffect`, unless a host write is held for ever and nobody resets. -/
theorem runTurn_effect (t : Turn) (s : State) (h : t = .reset ∨ s.stuck = false) :
    ∃ u, runTurn t s = .next u ∧ TurnEffect s u := by
  cases t
  case reset => exact ⟨_, rfl, .reset⟩
  case encoder =>
    have hs : s.stuck = false := h.resolve_left (by decide)
    exact ⟨s.encoderStep, by simp [runTurn, hs], .encoder (encoderStep_effect s)⟩
  case host =>
    have hs : s.stuck = false := h.resolve_left (by decide)
    obtain ⟨u, hu, he⟩ := hostMove_effect s
    exact ⟨u, by simp [runTurn, hs, hu], .host he⟩

/-- Every step that answers a next state is one of `TurnEffect` on the state after the turn is taken. -/
theorem step_effect {s u : State} (h : step s = .next u) : s.params.legal = true ∧ TurnEffect s.takeTurn u := by
  unfold step at h
  split at h
  · next hl =>
    refine ⟨hl, ?_⟩
    by_cases hs : s.nextTurn = .reset ∨ s.takeTurn.stuck = false
    · obtain ⟨v, hv, he⟩ := runTurn_effect s.nextTurn s.takeTurn hs
      rw [hv] at h
      cases h; exact he
    · rw [not_or] at hs
      obtain ⟨hr, hst⟩ := hs
      have hst : s.takeTurn.stuck = true := by simpa using hst
      cases ht : s.nextTurn
      · simp [runTurn, ht, hst] at h
      · simp [runTurn, ht, hst] at h
      · exact absurd ht hr
  · simp at h

/-- What an agent's move leaves alone of the interleaving: the turns and their counters. -/
def SameTurns (s t : State) : Prop := t.sched = s.sched ∧ t.passed = s.passed ∧ t.picks = s.picks

theorem CommandEffect.sameTurns {s t : State} (h : CommandEffect s t) : SameTurns s t := by
  cases h
  case filled => exact ⟨by simp, by simp, by simp⟩
  all_goals exact ⟨rfl, rfl, rfl⟩

theorem AccessEffect.sameTurns {s t : State} (h : AccessEffect s t) : SameTurns s t := by
  cases h
  case command h => exact h.sameTurns
  all_goals exact ⟨rfl, rfl, rfl⟩

theorem HostEffect.sameTurns {s t : State} (h : HostEffect s t) : SameTurns s t := by
  cases h
  case access h => exact h.sameTurns
  case again h => exact h.sameTurns
  all_goals exact ⟨rfl, rfl, rfl⟩

theorem EncoderEffect.sameTurns {s t : State} (h : EncoderEffect s t) : SameTurns s t := by
  cases h <;> exact ⟨rfl, rfl, rfl⟩

/-- The turns and their counters move with the turn alone, whatever the agent does. -/
theorem step_sameTurns {s t : State} (h : step s = .next t) : SameTurns s.takeTurn t := by
  obtain ⟨-, he⟩ := step_effect h
  cases he
  case host h => exact h.sameTurns
  case encoder h => exact h.sameTurns
  case reset => exact ⟨rfl, rfl, rfl⟩

/-- Being stuck does not depend on whose turn it is. -/
theorem State.takeTurn_stuck (s : State) : s.takeTurn.stuck = s.stuck := by
  unfold State.stuck State.hostEnabled State.encoderEnabled State.gpioStepEnabled State.spiStepEnabled State.gapStepEnabled
    State.showReady State.cfgReady
  simp

/-- A step on the host's turn, where the machine is not stuck, is the host's move. -/
theorem step_host {s : State} (hl : s.params.legal = true) (ht : s.nextTurn = .host) (hs : s.stuck = false) :
    step s = hostMove s.takeTurn := by
  have : s.takeTurn.stuck = false := by rw [State.takeTurn_stuck, hs]
  simp [step, hl, ht, runTurn, this]

/-- A step on the encoder's turn, where the machine is not stuck, is the encoder's step. -/
theorem step_encoder {s : State} (hl : s.params.legal = true) (ht : s.nextTurn = .encoder) (hs : s.stuck = false) :
    step s = .next s.takeTurn.encoderStep := by
  have : s.takeTurn.stuck = false := by rw [State.takeTurn_stuck, hs]
  simp [step, hl, ht, runTurn, this]

/-- With the schedule ended and only the encoder having a step, the step is the encoder's and nothing else moves. -/
theorem step_encoder_alone {s : State} (hl : s.params.legal = true) (hs : s.sched = []) (hh : s.hostEnabled = false)
    (hk : s.stuck = false) : step s = .next s.encoderStep := by
  have h : s.takeTurn = s := by simp [State.takeTurn, hs, State.bothEnabled, hh]
  rw [step_encoder hl (State.nextTurn_of_encoder hs hh) hk, h]

/-- A step on reset's turn is a reset. -/
theorem step_reset {s : State} (hl : s.params.legal = true) (ht : s.nextTurn = .reset) :
    step s = .next s.takeTurn.applyReset := by
  simp [step, hl, ht, runTurn]

/-- With HELD empty the machine is never stuck. -/
theorem State.stuck_of_empty {s : State} (h : s.held = .empty) : s.stuck = false := by simp [State.stuck, h]

/-- A CMD write reaches CMD in every build. -/
theorem accessTarget_cmdWrite (p : Params) (w : Word) : accessTarget p (cmdWrite w) = some (.reg .cmd) := by
  simp [accessTarget, Access.aligned, cmdWrite, cmdOff, mapOffset, regTable, List.lookup]

/-- A CMD write issues its word (40_command_unit.md R130). -/
theorem hostAccess_cmdWrite (w : Word) (s : State) : hostAccess (cmdWrite w) s = issue w s := by
  have h : hostAccess (cmdWrite w) s =
      (match accessTarget s.params (cmdWrite w) with | some t => s.writeTarget w t | none => .next s.badAccess) := rfl
  rw [h, accessTarget_cmdWrite]; rfl

/-- Writing to HELD what it holds changes nothing. -/
theorem State.held_eta {s : State} {h : Held} (hh : s.held = h) : { s with held := h } = s := by
  subst hh; rfl

/-- The presented command is the next access, on the host's turn. -/
@[simp] theorem State.presentCommand_nextTurn (s : State) (w : Word) : (s.presentCommand w).nextTurn = .host := rfl

@[simp] theorem State.presentCommand_takeTurn (s : State) (w : Word) :
    (s.presentCommand w).takeTurn = { s with prog := .access (cmdWrite w) :: s.prog, held := .empty } := rfl

end Sys2Proof.Machine
end

