-- ==== Sys2Proof/Laws/PerInstr.lean ====
section
/-! SUPPORT. A statement about every command as syntax: its opcode is in the opcode map under its own name, is not reserved,
and stands in bits 7:0 of its command word (30_encoding.md R100, R102, R103). -/

namespace Sys2Proof.Laws

/-- The opcode map holds the command under its opcode, the opcode is not reserved, and the command word carries it. -/
def CommandWord.Statement (i : Instr) : Prop :=
  opcodeTable.lookup (opcode i) = some i ∧ reservedOpcode (opcode i) = false ∧ opcodeField (encode i) = opcode i

theorem CommandWord.nop : CommandWord.Statement .nop := by unfold CommandWord.Statement; decide
theorem CommandWord.cpk24 : CommandWord.Statement .cpk24 := by unfold CommandWord.Statement; decide
theorem CommandWord.hsvd : CommandWord.Statement .hsvd := by unfold CommandWord.Statement; decide
theorem CommandWord.hsvf : CommandWord.Statement .hsvf := by unfold CommandWord.Statement; decide
theorem CommandWord.hsld : CommandWord.Statement .hsld := by unfold CommandWord.Statement; decide
theorem CommandWord.hslf : CommandWord.Statement .hslf := by unfold CommandWord.Statement; decide
theorem CommandWord.tohsv : CommandWord.Statement .tohsv := by unfold CommandWord.Statement; decide
theorem CommandWord.lerp : CommandWord.Statement .lerp := by unfold CommandWord.Statement; decide
theorem CommandWord.rlerp : CommandWord.Statement .rlerp := by unfold CommandWord.Statement; decide
theorem CommandWord.scale : CommandWord.Statement .scale := by unfold CommandWord.Statement; decide
theorem CommandWord.sat : CommandWord.Statement .sat := by unfold CommandWord.Statement; decide
theorem CommandWord.ceq : CommandWord.Statement .ceq := by unfold CommandWord.Statement; decide
theorem CommandWord.psetn : CommandWord.Statement .psetn := by unfold CommandWord.Statement; decide
theorem CommandWord.pgeti : CommandWord.Statement .pgeti := by unfold CommandWord.Statement; decide
theorem CommandWord.pgetf : CommandWord.Statement .pgetf := by unfold CommandWord.Statement; decide
theorem CommandWord.prand : CommandWord.Statement .prand := by unfold CommandWord.Statement; decide
theorem CommandWord.cfg : CommandWord.Statement .cfg := by unfold CommandWord.Statement; decide
theorem CommandWord.showFrame : CommandWord.Statement .showFrame := by unfold CommandWord.Statement; decide
theorem CommandWord.fill : CommandWord.Statement .fill := by unfold CommandWord.Statement; decide
theorem CommandWord.pfill : CommandWord.Statement .pfill := by unfold CommandWord.Statement; decide
theorem CommandWord.pixr : CommandWord.Statement .pixr := by unfold CommandWord.Statement; decide
theorem CommandWord.enc3 : CommandWord.Statement .enc3 := by unfold CommandWord.Statement; decide

end Sys2Proof.Laws
end

