-- ==== Sys2Proof/Laws/Pins.lean ====
section
/-! SUPPORT. The output pins: traces of appended segments, where SPI_SCK rises, and which pins a segment leaves low
(43_encoder.md R250, R251). -/

namespace Sys2Proof.Machine

/-- The trace of appended segments: the later ones are numbered on. -/
theorem pinTraceFrom_append (p : Pin) (n : Nat) (v w : List Segment) :
    pinTraceFrom p n (v ++ w) = pinTraceFrom p n v ++ pinTraceFrom p (n + v.length) w := by
  induction v generalizing n with
  | nil => rfl
  | cons g v ih =>
    have : n + 1 + v.length = n + (g :: v).length := by rw [List.length_cons]; omega
    simp only [List.cons_append, pinTraceFrom, ih, List.append_assoc, this]

/-- SPI_SCK rises strictly inside a whole bit. -/
theorem sckLow_bounds (n : Nat) {ticks : Nat} (h : 1 ≤ ticks) : 0 < sckLow n ticks ∧ sckLow n ticks < 2 * ticks := by
  have := Nat.mod_lt (Config.sckRise n) (show 0 < 2 * ticks - 1 by omega)
  unfold sckLow; omega

/-- SPI_SCK rises inside a cut bit or not at all. -/
theorem sckCutLow_le (n ticks : Nat) : sckCutLow n ticks ≤ 2 * ticks :=
  Nat.le_of_lt_succ (Nat.mod_lt _ (by omega))

/-- A GPIO segment leaves both SPI pins low. -/
theorem Segment.onPin_gpio {p : Pin} (hp : p ≠ .doutG) (n : Nat) (l : Bool) (t : Nat) :
    Segment.onPin p n ⟨.gpio, l, t⟩ = [(false, 2 * t)] := by
  cases p
  · exact absurd rfl hp
  · rfl
  · rfl

/-- An idle segment leaves every pin low. -/
@[simp] theorem Segment.onPin_idle (p : Pin) (n : Nat) (l : Bool) (t : Nat) :
    Segment.onPin p n ⟨.idle, l, t⟩ = [(false, 2 * t)] := by
  cases p <;> rfl

/-- Outside TX every pin is low. -/
theorem State.pinLevels_idle {s : State} (h : s.encState = .idle) (p : Pin) : s.pinLevels p = [false] := by
  unfold State.pinLevels; rw [h]

/-- Every pin is low throughout segments that no pin or another pin is driven in. -/
theorem pinTraceFrom_low {p : Pin} {w : List Segment} (h : ∀ g ∈ w, ∀ n, Segment.onPin p n g = [(false, 2 * g.ticks)]) (n : Nat) :
    ∀ x ∈ pinTraceFrom p n w, x.1 = false := by
  induction w generalizing n with
  | nil => intro x hx; cases hx
  | cons g w ih =>
    intro x hx
    rw [pinTraceFrom, h g (by simp)] at hx
    rcases List.mem_cons.1 hx with rfl | hx
    · rfl
    · exact ih (fun k hk => h k (by simp [hk])) _ x hx

end Sys2Proof.Machine
end

