-- ==== Sys2Proof/Tests/Slice0.lean ====
section
/-! SUPPORT. Own tests: well-formedness refuses an ill-formed term per check, command words written out from the opcode map,
one or two vectors of 95_test_vectors.md per command, and for every statement of Obligations.lean with hypotheses a named
witness that meets them. Expected values are the spec's (a comment names the row), never the model's own answer. -/

open Sys2Proof Sys2Proof.Machine Sys2Proof.Spec

namespace Sys2Proof.Tests

/-! ### Helpers -/

/-- A part of the next state of an outcome. -/
def after {α : Type} (o : Host.Outcome State Fault Refusal) (f : State → α) : Option α :=
  match o with
  | .next t => some (f t)
  | _ => none

/-- Reset with the three operand registers written. -/
def args (a b c : Word) : State := { State.reset with arg0 := a, arg1 := b, arg2 := c }

/-- RES after a command on the given operands. -/
def resOf (i : Instr) (a b c : Word) : Option Word := after (exec i (args a b c)) (·.res)

/-- The palette of 95_test_vectors.md 2.4: red, green, blue, PALN = 3. -/
def palette3 (a : Word) : State :=
  { (((args a 0#32 0#32).setPal 0 0x00FF0000#32).setPal 1 0x0000FF00#32).setPal 2 0x000000FF#32 with paln := 3#32 }

/-- A configured state with two pixels written, red and blue, and the gap elapsed on the wire. -/
def ready (config : Word) (xlen : Nat) : State :=
  { (State.reset.setPix 0 0x00FF0000#32).setPix 1 0x000000FF#32 with
    config := config
    npix := 2#32
    xlen := xlen
    cfgst := .configured
    gapOk := true
    wire := [⟨.idle, false, 7200⟩] }

/-- Row K1 of 2.5 and the gap step (row S4 of 2.7): GPIO, P24, GRB, blocking. -/
def gpioReady : State := ready 0x00005200#32 0

/-- Row K22 of 2.5 and the gap step: SPI, P24, GRB. -/
def spiReady : State := ready 0x00005204#32 198

/-- The snapshot of the two pixels. -/
def snap2 (config : Word) : Snap := { pixels := [0x00FF0000#32, 0x000000FF#32], config := config, npix := 2#32 }

/-- A blocking GPIO frame of the two pixels at data bit `q`. -/
def gpioTx (q : Nat) : State :=
  { gpioReady with snap := snap2 0x00005200#32, encState := .tx, seq := q, held := .blockingShow }

/-- A blocking SPI frame of the two pixels at SPI bit `q`. -/
def spiTx (q : Nat) : State :=
  { spiReady with
    snap := snap2 0x00005204#32
    xbuf := xbufOf Params.default (snap2 0x00005204#32)
    encState := .tx
    seq := q
    held := .blockingShow }

/-- `s` with the next turn `t`. -/
def withTurn (t : Turn) (s : State) : State := { s with sched := [t] }

/-- A build whose PIXEL_CAP is 0. -/
def illegalParams : Params := { Params.default with pixelCap := 0 }

/-! ### Well-formedness: the check accepts the defaults and refuses one ill-formed term each -/

theorem test_wf_default_build : Params.default.legal = true := by decide
theorem test_wf_t0h_zero : { Timing.default with t0h := 0 }.highTimesOk = false := by decide
theorem test_wf_t1h_not_above_t0h : { Timing.default with t1h := 10 }.highTimesOk = false := by decide
theorem test_wf_tbit_not_above_t1h : { Timing.default with tbit := 20 }.highTimesOk = false := by decide
theorem test_wf_subbit_zero : { Timing.default with subbit := 0 }.subbitOk = false := by decide
theorem test_wf_padding_short : { Timing.default with padb := 89 }.paddingOk 7200 = false := by decide
theorem test_wf_timing_p32 : { Params.default with p32 := { Timing.default with padb := 89 } }.legal = false := by decide
theorem test_wf_pixel_cap : { Params.default with pixelCap := 1048577 }.pixelCapOk = false := by decide
theorem test_wf_pal_cap : { Params.default with palCap := 257 }.palCapOk = false := by decide
theorem test_wf_clk : { Params.default with clkHz := 0 }.clkOk = false := by decide
theorem test_wf_reset_ticks : { Params.default with resetTicks := 0 }.resetTicksOk = false := by decide
theorem test_wf_access_size : (⟨.read, 0x004, 2, 0#32⟩ : Access).aligned = false := by decide
theorem test_wf_access_alignment : (⟨.write, 0x00D, 4, 0#32⟩ : Access).aligned = false := by decide
theorem test_wf_reserved_opcode : reservedOpcode 0x1B#8 = true ∧ reservedOpcode 0x1A#8 = false := by decide
theorem test_wf_line_operands : (HostLine.op .lerp [none, none, none, some 1]).wf Params.default = false := by decide
theorem test_wf_line_pixel : (HostLine.setPix 1024 0).wf Params.default = false := by decide
theorem test_wf_line_palette : (HostLine.setPal 256 0).wf Params.default = false := by decide
theorem test_wf_line_load : (HostLine.loadPal []).wf Params.default = false := by decide

/-! ### Decoding: words written out bit by bit from 30_encoding.md R100 and R102, {IGN[31:8], UNIT[7:4], FUNC[3:0]} -/

theorem test_decode_control : decode 0b00000000000000000000000000000000#32 = .ok .nop := by decide
theorem test_decode_cpk24 : decode 0b00000000000000000000000000010000#32 = .ok .cpk24 := by decide
theorem test_decode_hsvd : decode 0b00000000000000000000000000010001#32 = .ok .hsvd := by decide
theorem test_decode_hsvf : decode 0b00000000000000000000000000010010#32 = .ok .hsvf := by decide
theorem test_decode_hsld : decode 0b00000000000000000000000000010011#32 = .ok .hsld := by decide
theorem test_decode_hslf : decode 0b00000000000000000000000000010100#32 = .ok .hslf := by decide
theorem test_decode_tohsv : decode 0b00000000000000000000000000010101#32 = .ok .tohsv := by decide
/-- 95_test_vectors.md U7: the ignored bits are set. -/
theorem test_decode_lerp : decode 0b11111111111111111111111100010110#32 = .ok .lerp := by decide
theorem test_decode_rlerp : decode 0b00000000000000000000000000010111#32 = .ok .rlerp := by decide
theorem test_decode_scale : decode 0b00000000000000000000000000011000#32 = .ok .scale := by decide
theorem test_decode_sat : decode 0b00000000000000000000000000011001#32 = .ok .sat := by decide
theorem test_decode_ceq : decode 0b00000000000000000000000000011010#32 = .ok .ceq := by decide
theorem test_decode_psetn : decode 0b00000000000000000000000000100000#32 = .ok .psetn := by decide
theorem test_decode_pgeti : decode 0b00000000000000000000000000100001#32 = .ok .pgeti := by decide
theorem test_decode_pgetf : decode 0b00000000000000000000000000100010#32 = .ok .pgetf := by decide
theorem test_decode_prand : decode 0b00000000000000000000000000100011#32 = .ok .prand := by decide
theorem test_decode_cfg : decode 0b00000000000000000000000000110000#32 = .ok .cfg := by decide
theorem test_decode_show : decode 0b00000000000000000000000000110001#32 = .ok .showFrame := by decide
theorem test_decode_fill : decode 0b00000000000000000000000000110010#32 = .ok .fill := by decide
theorem test_decode_pfill : decode 0b00000000000000000000000000110011#32 = .ok .pfill := by decide
theorem test_decode_pixr : decode 0b00000000000000000000000000110100#32 = .ok .pixr := by decide
/-- 95_test_vectors.md U8. -/
theorem test_decode_enc3 : decode 0xABCDEF35#32 = .ok .enc3 := by decide
/-- The two ends of every reserved range of R103 are rejected by name. -/
theorem test_decode_reserved :
    ∀ b ∈ [0x01#8, 0x0F#8, 0x1B#8, 0x1F#8, 0x24#8, 0x2F#8, 0x36#8, 0x3F#8, 0x40#8, 0xFF#8],
      decode (0#24 ++ b) = .error (.reservedOpcode b) := by decide
/-- 95_test_vectors.md U9: 0x101 decodes as 0x01. -/
theorem test_decode_ignores_high_bits : decode 0x00000101#32 = .error (.reservedOpcode 0x01#8) := by decide
/-- Decoding rejects exactly the opcodes R103 lists. -/
theorem test_reserved_lookup :
    ∀ n < 256, (opcodeTable.lookup (BitVec.ofNat 8 n)).isNone = reservedOpcode (BitVec.ofNat 8 n) := by decide +kernel
/-- The table's word of SHOW decodes, and the fetch of it runs it: refused before CFG (row F6 of 2.6). -/
theorem test_fetch_show :
    decodeTableWord 8 0x31 = some .showFrame ∧ after (step (State.reset.withFetchWord 8 0x31)) (·.err) = some 0x00310008#32 := by
  decide

/-! ### Commands: vectors of 95_test_vectors.md -/

theorem test_nop : exec .nop (args 1#32 2#32 3#32) = .next (args 1#32 2#32 3#32) := rfl
theorem test_cpk24 : resOf .cpk24 0xFFFFFFFF#32 0#32 0#32 = some 0x00FFFFFF#32 := by decide
theorem test_hsvd_sector : resOf .hsvd 45#32 200#32 200#32 = some 0x00C8A12C#32 := by decide
theorem test_hsvd_negative : resOf .hsvd 0x00008000#32 255#32 255#32 = some 0x00FF0022#32 := by decide
theorem test_hsvf : resOf .hsvf 0x00014000#32 255#32 128#32 = some 0x00408000#32 := by decide
theorem test_hsld : resOf .hsld 210#32 128#32 128#32 = some 0x004180C0#32 := by decide
theorem test_hsld_negative : resOf .hsld 0xFFFFFFC4#32 255#32 128#32 = some 0x00FF01FF#32 := by decide
theorem test_hslf : resOf .hslf 0xFFFF#32 255#32 128#32 = some 0x00FF0105#32 := by decide
theorem test_tohsv : resOf .tohsv 0x00123456#32 0#32 0#32 = some 0x56C900D2#32 := by decide
theorem test_tohsv_red_wraps : resOf .tohsv 0x00FF0004#32 0#32 0#32 = some 0xFFFF0167#32 := by decide
theorem test_lerp : resOf .lerp 0x10000001#32 0x20FF0002#32 0x00C0#32 = some 0x1CBF0002#32 := by decide
theorem test_lerp_clamps : resOf .lerp 0x00102030#32 0x00405060#32 0x8000#32 = some 0x00102030#32 := by decide
theorem test_rlerp : resOf .rlerp 0x10000001#32 0x20FF0002#32 0x00C0#32 = some 0x14400001#32 := by decide
theorem test_rlerp_clamps_first : resOf .rlerp 0x00102030#32 0x00405060#32 0x0200#32 = some 0x00102030#32 := by decide
theorem test_scale : resOf .scale 0x80808080#32 0#32 0x00C0#32 = some 0x60606060#32 := by decide
theorem test_scale_rounds_down : resOf .scale 0x00010203#32 0#32 0x0080#32 = some 0x00000101#32 := by decide
theorem test_sat : resOf .sat 0x11C86432#32 255#32 0#32 = some 0x11C84200#32 := by decide
theorem test_sat_grey : resOf .sat 0x00808080#32 255#32 0#32 = some 0x00800000#32 := by decide
theorem test_ceq : resOf .ceq 0x00123456#32 0x00123456#32 0#32 = some 0x00000001#32 := by decide
theorem test_ceq_white : resOf .ceq 0x01000000#32 0x00000000#32 0#32 = some 0x00000000#32 := by decide
/-- Rows Q7, Q8 and Q5 of 2.4. -/
theorem test_psetn :
    after (exec .psetn (args 256#32 0#32 0#32)) (·.paln) = some 256#32 ∧
      after (exec .psetn (args 257#32 0#32 0#32)) (fun t => (t.err, t.paln)) = some (0x00200009#32, 0#32) := by decide
theorem test_pgeti : after (exec .pgeti (palette3 0x80000000#32)) (·.res) = some 0x0000FF00#32 := by decide
theorem test_pgetf_wraps : after (exec .pgetf (palette3 0xFFFFFFC0#32)) (·.res) = some 0x00BF0040#32 := by decide
theorem test_pgetf_top : after (exec .pgetf (palette3 0x7FFFFFFF#32)) (·.res) = some 0x000001FE#32 := by decide
/-- With PALN = 1 there is one entry to pick (2.4). -/
theorem test_prand_one_entry :
    after (exec .prand { palette3 0#32 with paln := 1#32 }) (·.res) = some 0x00FF0000#32 := by
  simp [after, exec, execPrand, State.withPalette, State.drawIndex, palette3, Nat.mod_one]
  decide
/-- Row Q3. -/
theorem test_prand_empty : after (exec .prand State.reset) (·.err) = some 0x00230009#32 := by decide
/-- Row K25 of 2.5. -/
theorem test_cfg :
    after (exec .cfg (args 0x0000D205#32 1#32 0#32)) (fun t => (t.err, t.config, t.npix, t.xlen, t.cfgst)) =
      some (0#32, 0x0000D205#32, 1#32, 192, .configured) := by decide
/-- Row K24 of 2.5. -/
theorem test_cfg_alloc_fail :
    after (exec .cfg (args 0x00005204#32 891#32 0#32)) (fun t => (t.err, t.npix, t.cfgst)) =
      some (0x00300007#32, 0#32, .failed) := by decide
/-- Row S3 of 2.7: before the gap step a SHOW is held. -/
theorem test_show_held :
    after (exec .showFrame { gpioReady with gapOk := false }) (fun t => (t.held, t.encState)) =
      some (.waitingShow, .idle) := by decide
/-- Row S4: accepted at once; program P1's snapshot. -/
theorem test_show_accepted :
    after (exec .showFrame gpioReady) (fun t => (t.held, t.encState, t.seq, t.snap)) =
      some (.blockingShow, .tx, 0, snap2 0x00005200#32) := by decide
/-- Rows F7 and F1 of 2.6. -/
theorem test_fill :
    after (exec .fill { gpioReady with arg0 := 0x12345678#32 }) (fun t => (t.pix 0, t.pix 1)) =
      some (0x12345678#32, 0x12345678#32) ∧ after (exec .fill State.reset) (·.err) = some 0x00320008#32 := by decide
/-- Rows F8 and F4 of 2.6. -/
theorem test_pfill :
    after (exec .pfill { palette3 0#32 with cfgst := .configured, npix := 5#32 })
      (fun t => (List.range 5).map t.pix) =
      some [0x00FF0000#32, 0x0000FF00#32, 0x000000FF#32, 0x00FF0000#32, 0x0000FF00#32] ∧
    after (exec .pfill gpioReady) (·.err) = some 0x00330009#32 := by decide
/-- Row F10 of 2.6. -/
theorem test_pixr : after (exec .pixr { gpioReady with arg0 := 0xFFFFFFFF#32 }) (·.res) = some 0x000000FF#32 := by decide
theorem test_enc3 : resOf .enc3 0xA5#32 0#32 0#32 = some 0x00D349A6#32 := by decide
theorem test_enc3_high_bits : resOf .enc3 0x000001FF#32 0#32 0#32 = some 0x00DB6DB6#32 := by decide

/-! ### Bus, errors, IRQ (2.2, 2.8) -/

/-- Rows M1 and M3. -/
theorem test_bus_constants :
    after (hostAccess ⟨.read, 0x000, 4, 0#32⟩ State.reset) (·.reads) = some [0x50584C31#32] ∧
      after (hostAccess ⟨.read, 0x03C, 4, 0#32⟩ State.reset) (·.reads) = some [0x00030100#32] := by decide
/-- Rows M13 and M21: a misaligned CMD write issues nothing; a second error sets MULTI. -/
theorem test_bus_misaligned_cmd :
    after (hostAccess ⟨.write, 0x00D, 4, 0x00000010#32⟩ { State.reset with err := 0x0100000A#32 }) (fun t => (t.err, t.res)) =
      some (0x0100010A#32, 0#32) := by decide
/-- Row M16: the top of pixel RAM. -/
theorem test_bus_top_pixel :
    after (hostAccess ⟨.write, 0x1FFC, 4, 7#32⟩ State.reset) (·.pix 1023) = some 7#32 ∧
      after (hostAccess ⟨.write, 0x2000, 4, 7#32⟩ State.reset) (·.err) = some 0x0100000A#32 := by decide
/-- Row M20. -/
theorem test_bus_ackdone :
    after (hostAccess ⟨.write, 0x02C, 4, 1#32⟩ { State.reset with irqStat := 1#32 }) (·.irqStat) = some 0#32 := by decide
/-- Row E10: the error keeps IRQ up. -/
theorem test_irq_error_pending : { State.reset with irqEn := 3#32, err := 0x00010001#32 }.irq = true := by decide

/-! ### Frames (2.7) -/

/-- P32 WRGB: 40 10 20 30. -/
theorem test_frame_bytes_wrgb :
    frameBytes { pixels := [0x40102030#32], config := 0x00001B01#32, npix := 1#32 } = [0x40#8, 0x10#8, 0x20#8, 0x30#8] := by
  decide
/-- P24 BGR: 33 22 11. -/
theorem test_frame_bytes_bgr :
    frameBytes { pixels := [0x00112233#32], config := 0x0000A400#32, npix := 1#32 } = [0x33#8, 0x22#8, 0x11#8] := by decide
/-- XBUF[90..101] of the 2.7 example, and its length. -/
theorem test_xbuf :
    let x := xbufOf Params.default { pixels := [0x40102030#32], config := 0x0000D205#32, npix := 1#32 }
    x.length = 192 ∧ (x.drop 90).take 12 =
      [0x93#8, 0x49#8, 0x24#8, 0x92#8, 0x69#8, 0x24#8, 0x93#8, 0x69#8, 0x24#8, 0x9A#8, 0x49#8, 0x24#8] := by decide +kernel
/-- Program P1: frame bit 8 is the first of the red byte FF, a 1: (1,20)(0,10). -/
theorem test_gpio_bit_step :
    (gpioTx 8).encoderStep.wire = (gpioTx 8).wire ++ [⟨.gpio, true, 20⟩, ⟨.gpio, false, 10⟩] := by decide
/-- Row S7: just after a GPIO frame ends. -/
theorem test_gpio_frame_end :
    (gpioTx 47).encoderStep.status = 0x00000011#32 ∧ (gpioTx 47).encoderStep.frames = 1#32 ∧
      (gpioTx 47).encoderStep.irqStat = 1#32 ∧ (gpioTx 47).encoderStep.held = .empty := by decide
/-- Row S8: just after an SPI frame ends. -/
theorem test_spi_frame_end : (spiTx 1583).encoderStep.status = 0x00000014#32 := by decide +kernel
/-- 2.9: a reset during a frame counts nothing, and CFGST returns to 0. -/
theorem test_reset_in_frame :
    after (step (withTurn .reset (gpioTx 8))) (fun t => (t.frames, t.irqStat, t.cfgst, t.held)) =
      some (0#32, 0#32, .unconfigured, .empty) := by decide

/-! ### The notation of host programs (program P1's encodings) -/

theorem test_program_p1 :
    encodeProgram [.op .cfg [some 0x00005200, some 2], .setPix 1 0x000000FF, .cmd .showFrame] =
      [.access ⟨.write, 0x010, 4, 0x00005200#32⟩, .access ⟨.write, 0x014, 4, 2#32⟩, .access ⟨.write, 0x00C, 4, 0x30#32⟩,
        .access ⟨.write, 0x1004, 4, 0x000000FF#32⟩, .access ⟨.write, 0x00C, 4, 0x31#32⟩] := by decide
/-- R240: after reset a WAITIDLE loop and the gap step interleave freely, and the encoder's step comes when its patience is used
up. -/
def pollingInGap (n : Nat) : State := { State.reset with prog := [.waitIdle], passed := n }
theorem test_host_may_go_first (h : 0 < Config.patience 0) : (pollingInGap 0).nextTurn = .host :=
  (State.nextTurn_of_both rfl rfl).trans (if_pos h)
theorem test_encoder_is_not_passed_over_for_ever : (pollingInGap (Config.patience 0)).nextTurn = .encoder :=
  (State.nextTurn_of_both rfl rfl).trans (if_neg (Nat.lt_irrefl _))

/-- Program P2: WAITIDLE is a loop. In the state of row S3 of 2.7 it reads 0x11 and goes on; in that of row S4 it reads 0x14 and
ends. -/
theorem test_waitidle :
    encodeProgram [.waitIdle] = [.waitIdle] ∧
    after (step { withTurn .host gpioReady with gapOk := false, prog := [.waitIdle] }) (fun t => (t.reads, t.prog)) =
      some ([0x00000011#32], [.waitIdle]) ∧
    after (step { withTurn .host gpioReady with prog := [.waitIdle] }) (fun t => (t.reads, t.prog)) =
      some ([0x00000014#32], []) := by decide

/-! ### Pins (43_encoder.md R250, R251) -/

/-- A 1 bit under GPIO: 20 ticks high and 10 low on DOUT_G, in half ticks; the SPI pins stay low. -/
theorem test_pins_gpio :
    pinTrace .doutG (gpioTx 8).currentWave = [(true, 40), (false, 20)] ∧
      pinTrace .spiMosi (gpioTx 8).currentWave = [(false, 40), (false, 20)] ∧
      pinTrace .spiSck (gpioTx 8).currentWave = [(false, 40), (false, 20)] := by decide
/-- An SPI bit, the first 1 after the padding: SPI_MOSI is high for SUBBIT = 10 ticks, SPI_SCK is low and then high. -/
theorem test_pins_spi :
    pinTrace .doutG (spiTx 720).currentWave = [(false, 20)] ∧ pinTrace .spiMosi (spiTx 720).currentWave = [(true, 20)] ∧
      (spiTx 720).pinLevels .spiSck = [false, true] := by decide +kernel
/-- Outside TX and after reset every pin is low. -/
theorem test_pins_idle :
    (∀ p ∈ [Pin.doutG, .spiMosi, .spiSck], State.reset.pinLevels p = [false]) ∧
      after (step (withTurn .reset (spiTx 720))) (·.pinLevels .spiSck) = some [false] := by decide +kernel

/-! ### Witnesses: concrete states and operands that meet the hypotheses of the statements of Obligations.lean -/

/-- A held SHOW of a GPIO configuration, before the gap step. -/
def waitingShow : State := { gpioReady with gapOk := false, held := .waitingShow, wire := [] }

/-- A CFG held while a non-blocking GPIO frame is in TX. -/
def waitingCfg : State :=
  { gpioTx 8 with
    config := 0x00005210#32
    snap := snap2 0x00005210#32
    held := .waitingCfg }

/-- A state no run reaches: a held CFG in TX with no bit left to send. -/
def stuckState : State := { waitingCfg with seq := 48 }

/-- `s` on the host's turn with a SHOW as its next access. -/
def showNext (s : State) : State := { s with sched := [.host], prog := [.access (cmdWrite 0x31#32)] }

theorem errOk_zero : ErrOk 0#32 := ⟨by decide, by decide, by decide, by decide⟩

/-- `State.reset` meets the invariant. -/
theorem witness_inv_reset : State.reset.Inv :=
  { legal := by decide, memWf := by decide, memMapped := by unfold State.RamMapped; decide, err := errOk_zero, irqStat := by decide, irqEn := by decide,
    config := by decide, npix := by decide, paln := by decide, configured := fun h => absurd h (by decide),
    tx := fun h => absurd h (by decide), heldShow := by decide,
    blocking := by decide }

/-- The invariant at states built from `ready`, from what differs among them. -/
theorem inv_ready (s : State) (x : Nat) (c : Word) (hp : s.params = Params.default) (hm : s.mem = (ready c x).mem)
    (he : s.err = 0#32) (hs : s.irqStat = 0#32) (hn : s.irqEn = 0#32) (hc : s.config = c) (hx : s.npix = 2#32)
    (hq : s.paln = 0#32) (hcfg : cfgAccepted c = c) (hcf : ConfiguredOk s) (htx : s.encState = .tx → TxOk s)
    (hh : s.held = .waitingShow → s.cfgst = .configured)
    (hb : s.held = .blockingShow ↔ (s.encState = .tx ∧ cfgAsync s.snap.config = false)) : s.Inv :=
  { legal := by rw [hp]; decide
    memWf := by rw [hm]; show Memory.wf (ready 0#32 0).mem; decide
    memMapped := by
      unfold State.RamMapped; rw [hm, hp]
      show ∀ k ∈ (ready 0#32 0).mem, _
      decide
    err := by rw [he]; exact errOk_zero
    irqStat := by rw [hs]; decide
    irqEn := by rw [hn]; decide
    config := by rw [hc, hcfg]
    npix := by rw [hx, hp]; decide
    paln := by rw [hq, hp]; decide
    configured := fun _ => hcf
    tx := htx
    heldShow := hh
    blocking := hb }

theorem witness_inv_gpio_ready : gpioReady.Inv :=
  inv_ready _ 0 _ rfl rfl rfl rfl rfl rfl rfl rfl (by decide) ⟨by decide, by decide⟩
    (fun h => absurd h (by decide)) (by decide) (by decide)
theorem witness_inv_spi_ready : spiReady.Inv :=
  inv_ready _ 198 _ rfl rfl rfl rfl rfl rfl rfl rfl (by decide) ⟨by decide, by decide⟩
    (fun h => absurd h (by decide)) (by decide) (by decide)
theorem witness_inv_waiting_show : waitingShow.Inv :=
  inv_ready _ 0 _ rfl rfl rfl rfl rfl rfl rfl rfl (by decide) ⟨by decide, by decide⟩
    (fun h => absurd h (by decide)) (by decide) (by decide)
theorem witness_inv_gpio_tx : (gpioTx 0).Inv :=
  inv_ready _ 0 _ rfl rfl rfl rfl rfl rfl rfl rfl (by decide) ⟨by decide, by decide⟩
    (fun _ => ⟨rfl, rfl, rfl, rfl, by decide, by decide⟩) (by decide) (by decide)
theorem witness_inv_spi_tx : (spiTx 0).Inv :=
  inv_ready _ 198 _ rfl rfl rfl rfl rfl rfl rfl rfl (by decide) ⟨by decide, by decide⟩
    (fun _ => ⟨rfl, rfl, rfl, rfl, by decide, fun _ => rfl⟩) (by decide) (by decide)
theorem witness_inv_waiting_cfg : waitingCfg.Inv :=
  inv_ready _ 0 _ rfl rfl rfl rfl rfl rfl rfl rfl (by decide) ⟨by decide, by decide⟩
    (fun _ => ⟨rfl, rfl, rfl, rfl, by decide, by decide⟩) (by decide) (by decide)
theorem witness_gap_gpio_ready : gpioReady.GapInv := ⟨by decide, by decide⟩
theorem witness_gap_spi_tx : (spiTx 0).GapInv := ⟨by decide, fun _ _ => by decide⟩

/-- StepRunsTheDecodedCommand. -/
theorem witness_step_runs :
    let s := State.reset.presentCommand 0x31#32
    s.params.legal = true ∧ s.nextTurn = .host ∧ s.held = .empty ∧ s.prog = .access (cmdWrite 0x31#32) :: [] ∧
      decode 0x31#32 = .ok .showFrame := ⟨by decide, rfl, rfl, rfl, rfl⟩
/-- The other clauses of StepRunsTheDecodedCommand: a misaligned read, WAITIDLE, the encoder's turn and reset's. -/
theorem witness_step_turns :
    let a := { withTurn .host gpioReady with prog := [.access ⟨.read, 0x006, 4, 0#32⟩] }
    let l := { withTurn .host gpioReady with prog := [.waitIdle] }
    let e := withTurn .encoder (gpioTx 8)
    let r := withTurn .reset (gpioTx 8)
    a.nextTurn = .host ∧ a.held = .empty ∧ a.prog = .access ⟨.read, 0x006, 4, 0#32⟩ :: [] ∧ a.params.legal = true ∧
      l.nextTurn = .host ∧ l.held = .empty ∧ l.prog = .waitIdle :: [] ∧ e.nextTurn = .encoder ∧ e.stuck = false ∧
      r.nextTurn = .reset := by decide

/-- HeldCommandWaitsForItsCondition, one state for each clause. -/
theorem witness_held_show_waits :
    let s := withTurn .host waitingShow
    s.params.legal = true ∧ s.nextTurn = .host ∧ s.stuck = false ∧ s.held = .waitingShow ∧ s.cfgst = .configured ∧
      ¬(s.encState = .idle ∧ (isSpi s.config = true ∨ s.gapOk = true)) := by decide
theorem witness_held_cfg_waits :
    let s := withTurn .host waitingCfg
    s.params.legal = true ∧ s.nextTurn = .host ∧ s.stuck = false ∧ s.held = .waitingCfg ∧ s.encState = .tx := by decide
theorem witness_held_show_runs :
    let s := withTurn .host { waitingShow with gapOk := true }
    s.params.legal = true ∧ s.nextTurn = .host ∧ s.stuck = false ∧ s.held = .waitingShow ∧ s.cfgst = .configured ∧
      s.encState = .idle ∧ (isSpi s.config = true ∨ s.gapOk = true) := by decide
theorem witness_held_cfg_runs :
    let s := withTurn .host { gpioReady with held := .waitingCfg }
    s.params.legal = true ∧ s.nextTurn = .host ∧ s.stuck = false ∧ s.held = .waitingCfg ∧ s.encState = .idle := by decide

theorem witness_blocking_show_waits :
    let s := withTurn .host (gpioTx 8)
    s.params.legal = true ∧ s.nextTurn = .host ∧ s.stuck = false ∧ s.held = .blockingShow := by decide

/-- ReservedOpcodesRaiseIllegalCmd: the ends of the ranges and their neighbours; the words are U3 and U4 of 2.1. -/
theorem witness_reserved :
    0x40 ≤ (0x000000FF#32).toNat % 256 ∧ 0x1B ≤ (0x0000001B#32).toNat % 256 ∧ (0x0000001B#32).toNat % 256 ≤ 0x1F ∧
      ¬ reservedOpcode 0x35#8 ∧ ¬ reservedOpcode 0x00#8 := by decide

/-- Every `Issued` opcode: a word with ignored bits set (U7 of 2.1). -/
theorem witness_issued : (0xFFFFFF16#32).toNat % 256 = 0x16 := by decide

/-- BlendAndScaleLaws, ConstructedColoursHaveNoWhite, ErringCommandsChangeOnlyErr, CommandsLeaveOperandsAndHostRegistersAlone and
NoCommandReadsRes: commands answer next states. -/
theorem witness_blend_ends :
    (0x00000000#32).toNat % 65536 = 0x0000 ∧ (0x00010100#32).toNat % 65536 = 0x0100 := by decide
theorem witness_commands_answer :
    (after (exec .lerp State.reset) (fun _ => ())).isSome ∧ (after (exec .rlerp State.reset) (fun _ => ())).isSome ∧
      (after (exec .scale State.reset) (fun _ => ())).isSome ∧ (after (exec .hsvd State.reset) (fun _ => ())).isSome ∧
      (after (exec .hslf State.reset) (fun _ => ())).isSome ∧ (after (exec .sat State.reset) (fun _ => ())).isSome := by decide
/-- ErringCommandsChangeOnlyErr, a failing CFG: row K2 of 2.5; and a command that raises nothing. -/
theorem witness_erring :
    after (exec .cfg { args 0x0000520C#32 2#32 0#32 with err := 0#32 }) (fun t => (t.err, t.cfgst)) =
      some (0x00300002#32, .failed) ∧
    after (exec .nop { args 0#32 0#32 0#32 with err := 0#32 }) (·.err) = some 0#32 := by decide

/-- HsvRoundTripRecoversTheHue at the ends of its ranges. -/
theorem witness_round_trip : 359 < 360 ∧ 255 < 256 ∧ 54 < 256 ∧ 54 ≤ 54 * 255 / 255 := by decide

/-- PsetnSetsALegalCount at 1, 256, 0 and 257. -/
theorem witness_psetn :
    (1 ≤ (args 1#32 0#32 0#32).arg0.toNat ∧ (args 256#32 0#32 0#32).arg0.toNat ≤ Params.default.palCap) ∧
      (args 0#32 0#32 0#32).arg0.toNat = 0 ∧ Params.default.palCap < (args 257#32 0#32 0#32).arg0.toNat := by decide
/-- PgetiWrapsTheIndex: index -1 of three is entry 2. -/
theorem witness_pgeti :
    State.reset.paln.toNat = 0 ∧ 2 < (palette3 0xFFFFFFFF#32).paln.toNat ∧
      ((palette3 0xFFFFFFFF#32).paln.toNat : Int) ∣ ((palette3 0xFFFFFFFF#32).arg0.toInt - (2 : Nat)) := by decide
/-- PgetfBlendsNeighbours: -0.25 lies between entries 2 and 0 at 192. -/
theorem witness_pgetf :
    let s := palette3 0xFFFFFFC0#32
    s.arg0.toInt = 256 * (-1) + (192 : Nat) ∧ 192 < 256 ∧ 2 < s.paln.toNat ∧ 0 < s.paln.toNat ∧
      (s.paln.toNat : Int) ∣ (-1 - (2 : Nat)) ∧ (s.paln.toNat : Int) ∣ (-1 + 1 - (0 : Nat)) := by decide
/-- PrandPicksAnActiveEntry. -/
theorem witness_prand : State.reset.paln.toNat = 0 ∧ 1 ≤ (palette3 0#32).paln.toNat := by decide
/-- PaletteLookupIsPeriodic: -1 and 2 for PGETI, -1.5 and 1.5 for PGETF. -/
theorem witness_periodic :
    1 ≤ (palette3 0xFFFFFFFF#32).paln.toNat ∧
      (2#32 : Word).toInt = (palette3 0xFFFFFFFF#32).arg0.toInt + (palette3 0xFFFFFFFF#32).paln.toNat ∧
      (0x180#32 : Word).toInt = (palette3 0xFFFFFE80#32).arg0.toInt + 256 * (palette3 0xFFFFFE80#32).paln.toNat ∧
      (after (exec .pgeti (palette3 0xFFFFFFFF#32)) (fun _ => ())).isSome ∧
      (after (exec .pgetf (palette3 0xFFFFFE80#32)) (fun _ => ())).isSome := by decide

/-- CfgChecksInOrderThenConfigures: rows K2, K5, K8, K18, K24 of 2.5 and HAS_SPI = 0 for the six errors, K1 and K22 for success. -/
theorem witness_cfg_errors :
    cfgErrors Params.default 0x0000520C#32 2 = some .badStrategy ∧
      cfgErrors { Params.default with hasSpi := false } 0x00005204#32 1 = some .strategyUnavailable ∧
      cfgErrors Params.default 0x00005202#32 2 = some .unsupportedProtocol ∧
      cfgErrors Params.default 0x00005600#32 2 = some .invalidOrder ∧
      cfgErrors Params.default 0x00005200#32 0 = some .invalidNpix ∧
      cfgErrors Params.default 0x00005200#32 1025 = some .invalidNpix ∧
      cfgErrors Params.default 0x00005204#32 891 = some .allocFail := by decide
theorem witness_cfg_passes :
    cfgErrors Params.default 0x00005200#32 2 = none ∧ cfgErrors Params.default 0x00005204#32 890 = none ∧
      State.reset.encState = .idle ∧ (gpioTx 0).encState = .tx := by decide
/-- ShowIsRefusedHeldOrAccepted: the four cases. -/
theorem witness_show :
    State.reset.cfgst ≠ .configured ∧ waitingShow.cfgst = .configured ∧ waitingShow.gapOk = false ∧
      isSpi waitingShow.config = false ∧ gpioReady.encState = .idle ∧ gpioReady.gapOk = true ∧ isSpi spiReady.config = true := by
  decide
/-- BusyMeansAShowWouldBeHeld: not busy when configured, not busy when not configured, and busy, each with the invariant. -/
theorem witness_busy :
    gpioReady.held = .empty ∧ gpioReady.status.getLsbD 0 = false ∧ State.reset.held = .empty ∧
      State.reset.status.getLsbD 0 = false ∧ { gpioReady with gapOk := false }.held = .empty ∧
      { gpioReady with gapOk := false }.status.getLsbD 0 = true := by decide
theorem witness_inv_gap_pending : { gpioReady with gapOk := false }.Inv :=
  inv_ready _ 0 _ rfl rfl rfl rfl rfl rfl rfl rfl (by decide) ⟨by decide, by decide⟩
    (fun h => absurd h (by decide)) (by decide) (by decide)
/-- FillSetsEveryActivePixel, PfillRepeatsThePalette, PixrReadsPixelRamWrapping. -/
theorem witness_fill :
    State.reset.cfgst ≠ .configured ∧ gpioReady.cfgst = .configured ∧ gpioReady.paln.toNat = 0 ∧
      1 ≤ { gpioReady with paln := 1#32 }.paln.toNat ∧ 1 < gpioReady.npix.toNat ∧
      (gpioReady.npix.toNat : Int) ∣ ({ gpioReady with arg0 := 0xFFFFFFFF#32 }.arg0.toInt - (1 : Nat)) := by decide

/-- FrameBitsFollowPixelSlotAndBitOrder and XbufLayout: GRB under P24 and WRGB under P32. -/
theorem witness_frame_layout :
    (snap2 0x00005200#32).pixels.length = (snap2 0x00005200#32).npix.toNat ∧
      OrderOk ((snap2 0x00005200#32).config.extractLsb' 8 8) (isP32 0x00005200#32) ∧ (0x00005200#32).toNat % 4 ≤ 1 ∧
      OrderOk ((snap2 0x00001B01#32).config.extractLsb' 8 8) (isP32 0x00001B01#32) ∧ (0x00001B01#32).toNat % 4 ≤ 1 := by decide
/-- GpioBitStepEmitsOneBit at a middle bit and at the last one. -/
theorem witness_gpio_bit :
    (gpioTx 8).encState = .tx ∧ isGpio (gpioTx 8).snap.config = true ∧ (gpioTx 8).seq < frameBits (gpioTx 8).snap ∧
      (gpioTx 47).seq + 1 = frameBits (gpioTx 47).snap := by decide
/-- SpiBitStepShiftsOneBit at a middle bit and at the last one. -/
theorem witness_spi_bit :
    (spiTx 720).encState = .tx ∧ isSpi (spiTx 720).snap.config = true ∧ (spiTx 720).seq < 8 * (spiTx 720).xlen ∧
      (spiTx 1583).seq + 1 = 8 * (spiTx 1583).xlen := by decide
/-- GapStepIsTheOnlyIdleStep; its steps are those of `witness_gap_ok_rises` and `test_reset_in_frame`. -/
theorem witness_gap_step :
    State.reset.encState = .idle ∧ State.reset.gapOk = false ∧ gpioReady.encState = .idle ∧ gpioReady.gapOk = true := by decide
/-- GapOkRisesOnlyByGapOrSpiFrameEnd: the gap step, and the end of an SPI frame that began before the gap had elapsed. -/
theorem witness_gap_ok_rises :
    after (step (withTurn .encoder State.reset)) (·.gapOk) = some true ∧ State.reset.gapOk = false ∧
      after (step (withTurn .encoder { spiTx 1583 with gapOk := false })) (·.gapOk) = some true := by decide +kernel
/-- GpioFrameWaveform and SpiFrameStream (with `witness_inv_gpio_tx` and `witness_inv_spi_tx`). -/
theorem witness_frames :
    (gpioTx 0).encState = .tx ∧ isGpio (gpioTx 0).snap.config = true ∧ (gpioTx 0).seq = 0 ∧ (spiTx 0).encState = .tx ∧
      isSpi (spiTx 0).snap.config = true ∧ (spiTx 0).seq = 0 := by decide
/-- StrategiesSendTheSameDataWaveform: the default timing, and the two frames of the same pixels (with `witness_inv_gpio_tx`,
`witness_inv_spi_tx` and `witness_frames`). -/
theorem witness_strategies :
    let t := Spec.timing (gpioTx 0).params (isP32 (gpioTx 0).snap.config)
    let u := Spec.timing (spiTx 0).params (isP32 (spiTx 0).snap.config)
    t.tbit = 3 * u.subbit ∧ t.t0h = u.subbit ∧ t.t1h = 2 * u.subbit ∧
      frameBits (gpioTx 0).snap = frameBits (spiTx 0).snap ∧
      ∀ k, k < frameBits (gpioTx 0).snap → frameBit (gpioTx 0).snap k = frameBit (spiTx 0).snap k := by decide +kernel
/-- The three parts of R248 and R249 on bits 0 and 1 at the defaults, written out: the GPIO pulses, the SPI groups, the padding. -/
theorem test_wire_trace_merges :
    wireTrace (gpioBitWave Timing.default false ++ gpioBitWave Timing.default true) =
        [(true, 10), (false, 20), (true, 20), (false, 10)] ∧
      wireTrace ([true, false, false, true, true, false].flatMap (spiBitWave Timing.default)) =
        [(true, 10), (false, 20), (true, 20), (false, 10)] ∧
      wireTrace ((List.replicate 8 false).flatMap (spiBitWave Timing.default)) = [(false, 80)] := by decide
/-- HostCannotDisturbAFrame: the host overwrites a pixel during a non-blocking frame (program P6). -/
theorem witness_host_in_tx :
    let s := { withTurn .host waitingCfg with held := .empty, prog := [.access ⟨.write, 0x1000, 4, 7#32⟩] }
    s.encState = .tx ∧ s.nextTurn = .host ∧ after (step s) (·.pix 0) = some 7#32 := by decide

/-- BadAccessesOnlyRecord: size, alignment, the two ends of the holes, and an RO register. -/
theorem witness_bad_access :
    (2 ≠ 4) ∧ (0x006 % 4 ≠ 0) ∧ 0x034 ∈ roOffsets := by decide
theorem witness_unmapped :
    ¬ Mapped Params.default 0x044 ∧ ¬ Mapped Params.default 0x3FC ∧ ¬ Mapped Params.default 0x800 ∧
      ¬ Mapped Params.default 0x2000 := by
  simp [Mapped, Params.default]
/-- LegalReadsReturnTheirWordAndChangeNothing and RamWritesStoreOneWord: the ends of both RAMs. -/
theorem witness_ram_off :
    RamOff Params.default 0x400 ∧ RamOff Params.default 0x7FC ∧ RamOff Params.default 0x1000 ∧
      RamOff Params.default 0x1FFC := by
  simp [RamOff, Params.default]
/-- RegisterWritesChangeOneRegister. -/
theorem witness_irq_stat : { State.reset with irqStat := 1#32 }.irqStat.toNat < 2 := by decide
/-- FirstErrorSticksLaterOnesSetMulti: no error yet, and one recorded. -/
theorem witness_first_error :
    State.reset.err.toNat % 256 = 0 ∧ { State.reset with err := 0x00310008#32 }.err.toNat % 256 ≠ 0 := by decide

/-- ResetRegisterValues and ResetAbortsFrameAndHold: in each of the two frames, and outside TX with a held write. -/
theorem witness_reset :
    let g := withTurn .reset (gpioTx 8)
    let p := withTurn .reset (spiTx 0)
    let h := withTurn .reset waitingShow
    g.params.legal = true ∧ g.nextTurn = .reset ∧ g.encState = .tx ∧ g.encoderEnabled = true ∧
      isGpio g.snap.config = true ∧ p.params.legal = true ∧ p.nextTurn = .reset ∧ p.encState = .tx ∧
      p.encoderEnabled = true ∧ isSpi p.snap.config = true ∧ h.nextTurn = .reset ∧ h.encState = .idle := by decide
theorem witness_reset_answers : (after (step (withTurn .reset (gpioTx 8))) (fun _ => ())).isSome := by decide

/-- EveryStepKeepsTheResetGap and NoStepChangesTheParameters: a step from `gpioReady` (with `witness_inv_gpio_ready` and
`witness_gap_gpio_ready`). -/
theorem witness_step_answers : (after (step gpioReady) (fun _ => ())).isSome := by decide
/-- EveryFrameStartsAfterTheResetGap: a GPIO and an SPI frame start. -/
theorem witness_gpio_frame_starts :
    (showNext gpioReady).encState = .idle ∧ after (step (showNext gpioReady)) (·.encState) = some .tx := by decide
theorem witness_spi_frame_starts :
    (showNext spiReady).encState = .idle ∧ after (step (showNext spiReady)) (·.encState) = some .tx := by decide +kernel
theorem witness_inv_show_next : (showNext gpioReady).Inv :=
  inv_ready _ 0 _ rfl rfl rfl rfl rfl rfl rfl rfl (by decide) ⟨by decide, by decide⟩
    (fun h => absurd h (by decide)) (by decide) (by decide)
theorem witness_inv_show_next_spi : (showNext spiReady).Inv :=
  inv_ready _ 198 _ rfl rfl rfl rfl rfl rfl rfl rfl (by decide) ⟨by decide, by decide⟩
    (fun h => absurd h (by decide)) (by decide) (by decide)
theorem witness_gap_show_next : (showNext gpioReady).GapInv := ⟨by decide, by decide⟩
theorem witness_gap_show_next_spi : (showNext spiReady).GapInv := ⟨by decide, by decide⟩
/-- EncoderLiftsEveryHold: the three holds (with the `witness_inv_` theorems of the same states). -/
theorem witness_holds :
    waitingShow.held ≠ .empty ∧ waitingCfg.held ≠ .empty ∧ (gpioTx 0).held ≠ .empty ∧ (spiTx 0).held ≠ .empty := by decide

/-- The two states after the last bit of a blocking frame: the frame has ended, and the gap has elapsed. -/
def lastBitDone : State := (gpioTx 47).encoderStep
def gapDone : State := lastBitDone.encoderStep
theorem step_last_bit : step (gpioTx 47) = .next lastBitDone :=
  step_encoder_alone (by decide) rfl (by decide) (by decide)
theorem step_gap : step lastBitDone = .next gapDone :=
  step_encoder_alone (by decide +kernel) (by decide +kernel) (by decide +kernel) (by decide +kernel)
theorem step_end : step gapDone = .next gapDone := by
  have h : gapDone.encoderStep = gapDone := by decide +kernel
  rw [step_encoder_alone (by decide +kernel) (by decide +kernel) (by decide +kernel) (by decide +kernel), h]

/-- A run from the last bit of a blocking frame: the bit, the gap, and then the end of R342. -/
def lastBitRun (n : Nat) : State := if n = 0 then gpioTx 47 else if n = 1 then lastBitDone else gapDone
theorem witness_is_run : IsRun lastBitRun := by
  intro n
  match n with
  | 0 => exact step_last_bit
  | 1 => exact step_gap
  | n + 2 => simpa [lastBitRun] using step_end
theorem witness_inv_last_bit : (lastBitRun 0).Inv :=
  inv_ready _ 0 _ rfl rfl rfl rfl rfl rfl rfl rfl (by decide) ⟨by decide, by decide⟩
    (fun _ => ⟨rfl, rfl, rfl, rfl, by decide, by decide⟩) (by decide) (by decide)
theorem witness_last_bit_ends : (lastBitRun 0).held = .blockingShow ∧ (lastBitRun 2).Quiescent := by
  unfold State.Quiescent; decide +kernel

/-- WhereTheMachineStops. -/
theorem witness_illegal_build :
    { State.reset with params := illegalParams }.params.legal = false := by decide
theorem witness_stuck :
    stuckState.params.legal = true ∧ stuckState.stuck = true ∧ stuckState.nextTurn ≠ .reset := by decide
theorem witness_not_stuck :
    gpioReady.params.legal = true ∧ gpioReady.stuck = false ∧ (withTurn .reset stuckState).nextTurn = .reset := by decide
/-- NothingMovesAtTheEndOfARun. -/
theorem witness_quiescent : gpioReady.params.legal = true ∧ gpioReady.Quiescent := ⟨by decide, rfl, rfl, rfl, rfl, rfl⟩

end Sys2Proof.Tests
end

section
/-! Scope (00_scope.md R7, R8): the parameters of a build through every step, and where the machine stops. -/

namespace Sys2Proof.Machine

/-! ### The parameters -/

theorem CommandEffect.params {s t : State} (h : CommandEffect s t) : t.params = s.params := by
  cases h
  case filled => exact State.fillPixels_params ..
  all_goals rfl

theorem AccessEffect.params {s t : State} (h : AccessEffect s t) : t.params = s.params := by
  cases h
  case command h => exact h.params
  all_goals rfl

theorem HostEffect.params {s t : State} (h : HostEffect s t) : t.params = s.params := by
  cases h
  case access h => exact h.params
  case again h => exact h.params
  all_goals rfl

theorem EncoderEffect.params {s t : State} (h : EncoderEffect s t) : t.params = s.params := by
  cases h <;> rfl

theorem TurnEffect.params {s t : State} (h : TurnEffect s t) : t.params = s.params := by
  cases h
  case host h => exact h.params
  case encoder h => exact h.params
  case reset => rfl

theorem step_params {s t : State} (h : step s = .next t) : t.params = s.params := by
  obtain ⟨-, he⟩ := step_effect h
  rw [he.params, State.takeTurn_params]

/-! ### The three outcomes of a step -/

theorem step_of_legal {s : State} (hl : s.params.legal = true) : step s = runTurn s.nextTurn s.takeTurn := if_pos hl

/-- An illegal build is refused (93_implementation_defined.md U12). -/
theorem step_illegal {s : State} (hl : s.params.legal = false) : step s = .refused .illegalBuild := by
  simp [step, hl]

/-- On a turn that is not reset's, a write that nothing can lift stops the machine (93_implementation_defined.md U14). -/
theorem runTurn_stuck {t : Turn} {s : State} (ht : t ≠ .reset) (hs : s.stuck = true) :
    runTurn t s = .fault .heldForever := by
  cases t
  case reset => exact absurd rfl ht
  case encoder => exact if_pos hs
  case host => exact if_pos hs

theorem step_stuck {s : State} (hl : s.params.legal = true) (hs : s.stuck = true) (ht : s.nextTurn ≠ .reset) :
    step s = .fault .heldForever := by
  rw [step_of_legal hl]
  exact runTurn_stuck ht (by rw [State.takeTurn_stuck, hs])

/-- In an admitted build nothing but a write held for ever stops the machine, and reset's turn not even then. -/
theorem step_answers {s : State} (hl : s.params.legal = true) (h : s.stuck = false ∨ s.nextTurn = .reset) :
    ∃ t, step s = .next t := by
  have hturn : s.nextTurn = .reset ∨ s.takeTurn.stuck = false := by
    rw [State.takeTurn_stuck]; exact h.symm
  obtain ⟨t, ht, -⟩ := runTurn_effect s.nextTurn s.takeTurn hturn
  exact ⟨t, (step_of_legal hl).trans ht⟩

end Sys2Proof.Machine

namespace Sys2Proof.Spec
open Sys2Proof.Machine

/-- Settles O58: the build's check comes first, then the held write, and every other turn answers. -/
theorem whereTheMachineStops : Obligations.WhereTheMachineStops := fun _ =>
  ⟨step_illegal, step_stuck, step_answers⟩

/-- Settles O60: by cases on what a step can do (`step_effect`), down to the command. -/
theorem noStepChangesTheParameters : Obligations.NoStepChangesTheParameters := fun _ _ => step_params

end Sys2Proof.Spec
end

section
/-! State (10_state.md): the bits of a word as arithmetic, the address map and legal accesses, STATUS and IRQ, what no command
writes, and what BUSY says about a SHOW. -/

namespace Sys2Proof.Machine

/-! ### Fields of a word as arithmetic -/

/-- A bit of a word as a division and a remainder. -/
theorem getLsbD_eq_div_mod (w : Word) (i : Nat) : w.getLsbD i = decide (w.toNat / 2 ^ i % 2 = 1) :=
  Nat.testBit_eq_decide_div_mod_eq

/-- Concatenation puts the left word above the right one. -/
theorem toNat_append_eq_add {m n : Nat} (x : BitVec m) (y : BitVec n) : (x ++ y).toNat = 2 ^ n * x.toNat + y.toNat := by
  rw [BitVec.toNat_append, Nat.mul_comm, ← Nat.shiftLeft_eq, Nat.shiftLeft_add_eq_or_of_lt y.isLt]

theorem errCode_toNat (e : Word) : (errCode e).toNat = e.toNat % 256 := by
  simp [errCode, BitVec.extractLsb'_toNat]

theorem cfgStrat_toNat (w : Word) : (cfgStrat w).toNat = w.toNat / 4 % 4 := by
  simp [cfgStrat, BitVec.extractLsb'_toNat, Nat.shiftRight_eq_div_pow]

theorem isGpio_eq (w : Word) : isGpio w = decide (w.toNat / 4 % 4 = 0) := by
  simp only [isGpio, ← BitVec.toNat_inj, cfgStrat_toNat]; rfl

/-- ERRV (10_state.md R24) on the number of the ERR word. -/
theorem State.errv_eq (s : State) : s.errv = decide (s.err.toNat % 256 ≠ 0) := by
  simp only [State.errv, ne_eq, ← BitVec.toNat_inj, errCode_toNat]; rfl

/-! ### The address map and legal accesses -/

/-- Only the first 17 word offsets name a register (20_memory.md R71). -/
theorem regTable_lookup_none {off : Nat} (h : 0x040 < off) : regTable.lookup off = none := by
  have hle : ∀ x ∈ regTable, x.1 ≤ 0x040 := by decide
  rw [List.lookup_eq_none_iff]
  intro x hx
  have := hle x hx
  simp; omega

/-- At an offset of the register table the map names that register (20_memory.md R71). -/
theorem mapOffset_reg {off : Nat} {r : Reg} (hr : regTable.lookup off = some r) (p : Params) :
    mapOffset p off = some (.reg r) := by
  simp [mapOffset, hr]

/-- An access of a word at a mapped, aligned offset reaches its target (20_memory.md R73). -/
theorem accessTarget_of_mapped {p : Params} {off : Nat} {t : Target} (ha : off % 4 = 0) (ht : mapOffset p off = some t)
    (d : Dir) (w : Word) : accessTarget p ⟨d, off, 4, w⟩ = some t := by
  simp [accessTarget, Access.aligned, ha, ht]

theorem hostAccess_read {s : State} {off : Nat} {t : Target} (ha : off % 4 = 0) (ht : mapOffset s.params off = some t)
    (w : Word) : hostAccess ⟨.read, off, 4, w⟩ s = .next (s.observe (s.readTarget t)) := by
  simp [hostAccess, accessTarget_of_mapped ha ht]

theorem hostAccess_write {s : State} {off : Nat} {t : Target} (ha : off % 4 = 0) (ht : mapOffset s.params off = some t)
    (w : Word) : hostAccess ⟨.write, off, 4, w⟩ s = s.writeTarget w t := by
  simp [hostAccess, accessTarget_of_mapped ha ht]

theorem hostAccess_read_reg {off : Nat} (r : Reg) (ha : off % 4 = 0) (hr : regTable.lookup off = some r) (s : State)
    (w : Word) : hostAccess ⟨.read, off, 4, w⟩ s = .next (s.observe (s.readReg r)) :=
  hostAccess_read ha (mapOffset_reg hr _) w

theorem hostAccess_write_reg {off : Nat} (r : Reg) (ha : off % 4 = 0) (hr : regTable.lookup off = some r) (s : State)
    (w : Word) : hostAccess ⟨.write, off, 4, w⟩ s = s.writeReg w r :=
  hostAccess_write ha (mapOffset_reg hr _) w

/-- A write at the offset of a palette or pixel word stores that word (10_state.md R37, R38). -/
theorem hostAccess_write_ram {s : State} {off : Nat} (h : Spec.RamOff s.params off) (w : Word) :
    hostAccess ⟨.write, off, 4, w⟩ s = .next (s.setRamWord off w) := by
  obtain ⟨ha, hr⟩ := h
  have hlookup : regTable.lookup off = none := regTable_lookup_none (by omega)
  by_cases hp : 0x400 ≤ off ∧ off < 0x400 + 4 * s.params.palCap
  · have ht : mapOffset s.params off = some (.pal ((off - 0x400) / 4)) := by simp [mapOffset, hlookup, hp]
    have hoff : palOff ((off - 0x400) / 4) = off := by unfold palOff; omega
    rw [hostAccess_write ha ht, State.writeTarget, State.setPal, hoff]
  · have hx := hr.resolve_left hp
    have ht : mapOffset s.params off = some (.pix ((off - 0x1000) / 4)) := by simp [mapOffset, hlookup, hp, hx]
    have hoff : pixOff ((off - 0x1000) / 4) = off := by unfold pixOff; omega
    rw [hostAccess_write ha ht, State.writeTarget, State.setPix, hoff]

/-- Write-1-to-clear of a register whose only bit is bit 0 (10_state.md R30). -/
theorem writeOneToClear {x : Word} (hx : x.toNat < 2) (w : Word) :
    x &&& ~~~(w &&& 1#32) = if w.getLsbD 0 then 0#32 else x := by
  have hx : x = 0#32 ∨ x = 1#32 := by bv_omega
  rw [BitVec.and_one_eq_setWidth_ofBool_getLsbD]
  cases w.getLsbD 0
  · rcases hx with rfl | rfl <;> decide
  · rcases hx with rfl | rfl <;> decide

/-- Keeping bits 1:0 is a remainder (10_state.md R31). -/
theorem and_three_eq_mod (w : Word) : w &&& 3#32 = BitVec.ofNat 32 (w.toNat % 4) := by
  apply BitVec.eq_of_toNat_eq
  have h : w.toNat &&& 3 = w.toNat % 4 := Nat.and_two_pow_sub_one_eq_mod w.toNat 2
  rw [BitVec.toNat_and, BitVec.toNat_ofNat, BitVec.toNat_ofNat, Nat.mod_eq_of_lt (show 3 < 2 ^ 32 by decide), h]
  omega

/-! ### STATUS and IRQ -/

/-- STATUS is the sum of its fields at their bits (10_state.md R24). -/
theorem State.status_toNat (s : State) : s.status.toNat =
    s.busy.toNat + 2 * (decide (s.encState = .tx)).toNat + 4 * s.gapOk.toNat + 16 * s.cfgst.code.toNat +
      64 * s.palOk.toNat + 128 * s.errv.toNat := by
  simp only [State.status, toNat_append_eq_add, BitVec.toNat_ofBool, BitVec.toNat_ofNat]
  omega

/-- Bit 0 of STATUS is BUSY (10_state.md R24). -/
theorem State.status_bit_zero (s : State) : s.status.getLsbD 0 = s.busy := by
  rw [State.status, BitVec.getLsbD_append]
  simp

/-- IRQ on the numbers of the three registers (10_state.md R32). -/
theorem State.irq_iff (s : State) : s.irq = true ↔
    (s.irqStat.toNat % 2 = 1 ∧ s.irqEn.toNat % 2 = 1) ∨ (s.err.toNat % 256 ≠ 0 ∧ s.irqEn.toNat / 2 % 2 = 1) := by
  simp only [State.irq, State.done, State.errv_eq, getLsbD_eq_div_mod, Bool.or_eq_true, Bool.and_eq_true, decide_eq_true_eq,
    pow_zero, pow_one, Nat.div_one]

/-! ### What no command writes -/

/-- What a command leaves alone of the operands, of the host's registers and of what the host still does and has seen
(10_state.md R21, R30, R31, R33, 43_encoder.md R253). -/
structure SameHostRegisters (s t : State) : Prop where
  arg0    : t.arg0 = s.arg0
  arg1    : t.arg1 = s.arg1
  arg2    : t.arg2 = s.arg2
  irqStat : t.irqStat = s.irqStat
  irqEn   : t.irqEn = s.irqEn
  frames  : t.frames = s.frames
  gapOk   : t.gapOk = s.gapOk
  prog    : t.prog = s.prog
  reads   : t.reads = s.reads

theorem CommandEffect.sameHostRegisters {s t : State} (h : CommandEffect s t) : SameHostRegisters s t := by
  cases h
  case filled => constructor <;> simp
  all_goals constructor <;> rfl

/-- What a command that answers a next state has done to it. -/
theorem commandEffect_of_exec {i : Instr} {s t : State} (h : exec i s = .next t) : CommandEffect s t := by
  obtain ⟨u, hu, he⟩ := exec_effect i s
  rw [hu] at h
  cases h
  exact he

theorem State.withConfigured_res {s k : State} (opc : Byte) (h : k.res = s.res) : (s.withConfigured opc k).res = s.res := by
  unfold State.withConfigured
  split
  · exact h
  · rfl

/-- The six commands that produce no result leave RES alone (10_state.md R22, 40_command_unit.md R134). -/
theorem exec_res_of_no_result {i : Instr} {s t : State} (hi : i ∈ [Instr.nop, .psetn, .cfg, .showFrame, .fill, .pfill])
    (h : exec i s = .next t) : t.res = s.res := by
  cases i
  case nop => cases h; rfl
  case psetn => cases h; split <;> rfl
  case cfg =>
    cases h
    split
    · split <;> rfl
    · rfl
  case showFrame => cases h; exact State.withConfigured_res _ (by split <;> rfl)
  case fill => cases h; exact State.withConfigured_res _ (State.fillPixels_res ..)
  case pfill =>
    cases h
    refine State.withConfigured_res _ ?_
    split
    · rfl
    · exact State.fillPixels_res ..
  all_goals simp at hi

/-! ### BUSY and SHOW -/

/-- A configuration in use has one of the two strategies (43_encoder.md R211). -/
theorem ConfiguredOk.isGpio_eq {s : State} (h : ConfiguredOk s) : isGpio s.config = !isSpi s.config := by
  have hstrat : (cfgStrat s.config).toNat ≤ 1 := by
    by_contra hgt
    have hbad : cfgCheck s.params s.config s.npix = some .badStrategy := if_pos (by omega)
    simp [h.passes] at hbad
  have hcases : cfgStrat s.config = 0#2 ∨ cfgStrat s.config = 1#2 := by bv_omega
  rcases hcases with h0 | h1
  · simp [isGpio, isSpi, h0]
  · simp [isGpio, isSpi, h1]

/-- While configured, BUSY says that the condition of SHOW's hold does not hold (10_state.md R24, 40_command_unit.md R132). -/
theorem State.busy_of_configured {s : State} (hinv : s.Inv) (hc : s.cfgst = .configured) : s.busy = !s.showReady := by
  have hgpio := (hinv.configured hc).isGpio_eq
  cases he : s.encState <;> simp [State.busy, State.showReady, hc, he, hgpio]

/-- While not configured the block is never busy: a frame runs only when configured. -/
theorem State.busy_of_not_configured {s : State} (hinv : s.Inv) (hc : s.cfgst ≠ .configured) : s.busy = false := by
  have hidle : s.encState ≠ .tx := fun h => hc (hinv.tx h).configured
  simp [State.busy, hc, hidle]

theorem exec_show_of_not_configured {s : State} (hc : s.cfgst ≠ .configured) :
    exec .showFrame s = .next (s.raise .notConfigured 0x31#8) :=
  congrArg Host.Outcome.next (if_neg hc)

theorem exec_show_of_configured {s : State} (hc : s.cfgst = .configured) :
    exec .showFrame s = .next (if s.showReady then s.acceptShow else { s with held := .waitingShow }) :=
  congrArg Host.Outcome.next (if_pos hc)

/-- With HELD empty, SHOW is held exactly if it is configured and its condition does not hold (40_command_unit.md R132). -/
theorem exec_show_held_iff {s : State} (hh : s.held = .empty) :
    exec .showFrame s = .next { s with held := .waitingShow } ↔ s.cfgst = .configured ∧ s.showReady = false := by
  constructor
  · intro h
    by_cases hc : s.cfgst = .configured
    · refine ⟨hc, ?_⟩
      by_contra hr
      rw [exec_show_of_configured hc, if_pos (by simpa using hr)] at h
      have hheld : s.acceptShow.held = .waitingShow := congrArg State.held (Host.Outcome.next.inj h)
      rw [State.acceptShow_held] at hheld
      split at hheld <;> cases hheld
    · rw [exec_show_of_not_configured hc] at h
      have hheld : s.held = .waitingShow := congrArg State.held (Host.Outcome.next.inj h)
      rw [hh] at hheld
      cases hheld
  · rintro ⟨hc, hr⟩
    rw [exec_show_of_configured hc, if_neg (by simp [hr])]

end Sys2Proof.Machine

namespace Sys2Proof.Spec
open Sys2Proof.Machine

/-- Settles O25: BUSY is the negation of SHOW's condition while configured, and 0 otherwise, where SHOW is refused at once. -/
theorem busyMeansAShowWouldBeHeld : Obligations.BusyMeansAShowWouldBeHeld := by
  intro s hinv hh
  rw [State.status_bit_zero, exec_show_held_iff hh]
  by_cases hc : s.cfgst = .configured
  · simp [State.busy_of_configured hinv hc, hc]
  · simp [State.busy_of_not_configured hinv hc, hc]

/-- Settles O31: by cases on what a command can do (`exec_effect`); RES over the six commands that produce no result. -/
theorem commandsLeaveOperandsAndHostRegistersAlone : Obligations.CommandsLeaveOperandsAndHostRegistersAlone := by
  intro i s t h
  have he := commandEffect_of_exec h
  obtain ⟨hsched, hpassed, hpicks⟩ := he.sameTurns
  have hk := he.sameHostRegisters
  exact ⟨hk.arg0, hk.arg1, hk.arg2, hk.irqStat, hk.irqEn, hk.frames, hk.gapOk, he.params, hk.prog, hsched, hpassed, hpicks,
    hk.reads, fun hi => exec_res_of_no_result hi h⟩

/-- Settles O47: the write is a word store of RAM, whose rules are those of `Laws/Memory.lean`. -/
theorem ramWritesStoreOneWord : Obligations.RamWritesStoreOneWord := fun s off w h =>
  ⟨_, hostAccess_write_ram h w, s.ramWord_setRamWord_same off w, fun _ => s.ramByte_setRamWord_other w, rfl⟩

/-- Settles O48: STATUS is the sum of its fields, each put into the rule's own terms. -/
theorem statusBits : Obligations.StatusBits := by
  refine ⟨by decide, fun s w => ⟨hostAccess_read_reg .status rfl rfl s w, hostAccess_write_reg .status rfl rfl s w⟩, fun s => ?_⟩
  rw [State.status_toNat, State.errv_eq, State.busy, isGpio_eq, State.palOk]
  cases s.cfgst <;> rfl

/-- Settles O46: each register's write is its line of the address map; IRQ_STAT and IRQ_EN keep the bits they have. -/
theorem registerWritesChangeOneRegister : Obligations.RegisterWritesChangeOneRegister := by
  intro s w
  refine ⟨hostAccess_write_reg .arg0 rfl rfl s w, hostAccess_write_reg .arg1 rfl rfl s w,
    hostAccess_write_reg .arg2 rfl rfl s w, hostAccess_write_reg .err rfl rfl s w, fun hx => ?_, ?_⟩
  · rw [hostAccess_write_reg .irqStat rfl rfl, State.writeReg, writeOneToClear hx]
  · rw [hostAccess_write_reg .irqEn rfl rfl, State.writeReg, and_three_eq_mod]

/-- Settles O50: IRQ bit by bit. -/
theorem irqLevel : Obligations.IrqLevel := ⟨by decide, State.irq_iff⟩

end Sys2Proof.Spec
end

section
/-! Memory (20_memory.md): where the address map names a register, a RAM word or nothing, the accesses that are refused, and the
words that legal reads return. -/

namespace Sys2Proof.Machine

/-! ### Refused accesses -/

theorem mapOffset_of_not_mapped {p : Params} {off : Nat} (h : ¬ Spec.Mapped p off) : mapOffset p off = none := by
  obtain ⟨hreg, hpal, hpix⟩ : ¬ off ≤ 0x040 ∧ ¬ (0x400 ≤ off ∧ off < 0x400 + 4 * p.palCap) ∧
      ¬ (0x1000 ≤ off ∧ off < 0x1000 + 4 * p.pixelCap) := by simpa only [Spec.Mapped, not_or] using h
  simp [mapOffset, regTable_lookup_none (Nat.lt_of_not_le hreg), hpal, hpix]

/-- An access of a wrong size, at a misaligned offset or at an unmapped one reaches nothing (20_memory.md R73, R74). -/
theorem accessTarget_of_illegal {p : Params} {off size : Nat} (h : size ≠ 4 ∨ off % 4 ≠ 0 ∨ ¬ Spec.Mapped p off) (d : Dir)
    (w : Word) : accessTarget p ⟨d, off, size, w⟩ = none := by
  rcases h with hsize | halign | hmap
  · simp [accessTarget, Access.aligned, hsize]
  · simp [accessTarget, Access.aligned, halign]
  · simp [accessTarget, mapOffset_of_not_mapped hmap]

theorem hostAccess_read_refused {s : State} {off size : Nat} {w : Word}
    (h : accessTarget s.params ⟨.read, off, size, w⟩ = none) :
    hostAccess ⟨.read, off, size, w⟩ s = .next (s.badAccess.observe 0#32) := by
  simp [hostAccess, h]

theorem hostAccess_write_refused {s : State} {off size : Nat} {w : Word}
    (h : accessTarget s.params ⟨.write, off, size, w⟩ = none) :
    hostAccess ⟨.write, off, size, w⟩ s = .next s.badAccess := by
  simp [hostAccess, h]

/-- The RO registers, in the order of the address map (20_memory.md R75). -/
def roRegs : List Reg := [.id, .status, .res, .config, .npix, .paln, .frames, .capPix, .capMisc, .capXbuf]

/-- The offsets of R75 name the RO registers. -/
theorem roOffsets_lookup : ∀ off ∈ Spec.roOffsets, off % 4 = 0 ∧ ∃ r ∈ roRegs, regTable.lookup off = some r := by decide

theorem State.writeReg_ro (s : State) (w : Word) : ∀ r ∈ roRegs, s.writeReg w r = .next s.badAccess := by
  simp [roRegs, State.writeReg]

/-- A write to an RO register is a BAD_ACCESS (20_memory.md R75). -/
theorem hostAccess_write_ro {off : Nat} (h : off ∈ Spec.roOffsets) (s : State) (w : Word) :
    hostAccess ⟨.write, off, 4, w⟩ s = .next s.badAccess := by
  obtain ⟨halign, r, hr, hlookup⟩ := roOffsets_lookup off h
  rw [hostAccess_write_reg r halign hlookup, s.writeReg_ro w r hr]

/-! ### Legal reads -/

/-- CAP_MISC is the sum of its fields at their bits (10_state.md R35). -/
theorem capMiscWord_eq (p : Params) :
    capMiscWord p = BitVec.ofNat 32 (p.palCap % 512 + p.hasGpio.toNat * 65536 + p.hasSpi.toNat * 131072) := by
  apply BitVec.eq_of_toNat_eq
  have hgpio := p.hasGpio.toNat_le
  have hspi := p.hasSpi.toNat_le
  simp only [capMiscWord, toNat_append_eq_add, BitVec.toNat_ofBool, BitVec.toNat_ofNat]
  omega

/-- The offset and the value of every register (20_memory.md R71). -/
def State.registerValues (s : State) : List (Nat × Word) := regTable.map fun e => (e.1, s.readReg e.2)

/-- Every register is found at its own word-aligned offset. -/
theorem regTable_lookup_of_mem : ∀ e ∈ regTable, e.1 % 4 = 0 ∧ regTable.lookup e.1 = some e.2 := by decide

/-- A read at a register's offset returns its value (20_memory.md R72). -/
theorem hostAccess_read_of_mem_registerValues {s : State} {x : Nat × Word} (h : x ∈ s.registerValues) (w : Word) :
    hostAccess ⟨.read, x.1, 4, w⟩ s = .next (s.observe x.2) := by
  obtain ⟨e, he, rfl⟩ := List.mem_map.1 h
  obtain ⟨halign, hlookup⟩ := regTable_lookup_of_mem e he
  exact hostAccess_read_reg e.2 halign hlookup s w

/-- At a RAM word's offset the map names that word (10_state.md R37, R38). -/
theorem mapOffset_ram {p : Params} {off : Nat} (h : Spec.RamOff p off) :
    ∃ t, mapOffset p off = some t ∧ ∀ s : State, s.readTarget t = s.ramWord off := by
  obtain ⟨halign, hr⟩ := h
  have hlookup : regTable.lookup off = none := regTable_lookup_none (by omega)
  by_cases hpal : 0x400 ≤ off ∧ off < 0x400 + 4 * p.palCap
  · have hoff : palOff ((off - 0x400) / 4) = off := by unfold palOff; omega
    exact ⟨.pal ((off - 0x400) / 4), by simp [mapOffset, hlookup, hpal], fun s => congrArg s.ramWord hoff⟩
  · have hpix := hr.resolve_left hpal
    have hoff : pixOff ((off - 0x1000) / 4) = off := by unfold pixOff; omega
    exact ⟨.pix ((off - 0x1000) / 4), by simp [mapOffset, hlookup, hpal, hpix], fun s => congrArg s.ramWord hoff⟩

/-- A read at a RAM word's offset returns that word (20_memory.md R72). -/
theorem hostAccess_read_ram {s : State} {off : Nat} (h : Spec.RamOff s.params off) (w : Word) :
    hostAccess ⟨.read, off, 4, w⟩ s = .next (s.observe (s.ramWord off)) := by
  obtain ⟨t, ht, hword⟩ := mapOffset_ram h
  rw [hostAccess_read h.1 ht, hword]

end Sys2Proof.Machine

namespace Sys2Proof.Spec
open Sys2Proof.Machine

/-- Settles O44: an access that reaches nothing and a write to an RO register are `State.badAccess`; CMD is readable as 0. -/
theorem badAccessesOnlyRecord : Obligations.BadAccessesOnlyRecord := fun s _ _ w =>
  ⟨fun h => ⟨hostAccess_read_refused (accessTarget_of_illegal h .read w),
      hostAccess_write_refused (accessTarget_of_illegal h .write w)⟩,
    fun h => hostAccess_write_ro h s w, hostAccess_read_reg .cmd rfl rfl s w⟩

/-- Settles O45: the statement's list is `State.registerValues`, with CAP_MISC as a sum; the RAM words by the address map. -/
theorem legalReadsReturnTheirWordAndChangeNothing : Obligations.LegalReadsReturnTheirWordAndChangeNothing := by
  intro s w
  refine ⟨fun x hx => ?_, fun off h => hostAccess_read_ram h w⟩
  rw [← capMiscWord_eq] at hx
  have hx : x ∈ s.registerValues := hx
  exact hostAccess_read_of_mem_registerValues hx w

end Sys2Proof.Spec
end

section
/-! Encoding (30_encoding.md R100 to R105): the opcode map as a bijection between the commands and the opcodes that are not
reserved, and what issuing a word does; the results of TOHSV and CEQ (R114, R116) with `rgb2hsv` (41_color.md R151) in numbers. -/

namespace Sys2Proof

/-! ### The opcode map -/

/-- Every command stands in the opcode map under its own opcode, which is not reserved. -/
theorem commandWord (i : Instr) : Laws.CommandWord.Statement i := by
  open Laws in
  cases i
  exacts [CommandWord.nop, CommandWord.cpk24, CommandWord.hsvd, CommandWord.hsvf, CommandWord.hsld, CommandWord.hslf,
    CommandWord.tohsv, CommandWord.lerp, CommandWord.rlerp, CommandWord.scale, CommandWord.sat, CommandWord.ceq,
    CommandWord.psetn, CommandWord.pgeti, CommandWord.pgetf, CommandWord.prand, CommandWord.cfg, CommandWord.showFrame,
    CommandWord.fill, CommandWord.pfill, CommandWord.pixr, CommandWord.enc3]

theorem opcode_of_mem_opcodeTable : ∀ e ∈ opcodeTable, opcode e.2 = e.1 := by decide

/-- The opcode map finds a command under its own opcode and under no other (30_encoding.md R102). -/
theorem lookup_opcodeTable_eq_some_iff {b : Byte} {i : Instr} : opcodeTable.lookup b = some i ↔ opcode i = b := by
  constructor
  · intro h
    obtain ⟨l₁, l₂, hl, -⟩ := List.lookup_eq_some_iff.1 h
    exact opcode_of_mem_opcodeTable (b, i) (by simp [hl])
  · rintro rfl
    exact (commandWord i).1

/-- The opcodes of the map, in its order: four gapless runs (30_encoding.md R102). -/
theorem opcodeTable_opcodes : opcodeTable.map (fun e => e.1.toNat) =
    List.range' 0x00 1 ++ List.range' 0x10 11 ++ List.range' 0x20 4 ++ List.range' 0x30 6 := by decide

theorem reservedOpcode_eq_true_iff {b : Byte} : reservedOpcode b = true ↔
    (0x01 ≤ b.toNat ∧ b.toNat ≤ 0x0F) ∨ (0x1B ≤ b.toNat ∧ b.toNat ≤ 0x1F) ∨ (0x24 ≤ b.toNat ∧ b.toNat ≤ 0x2F) ∨
      (0x36 ≤ b.toNat ∧ b.toNat ≤ 0x3F) ∨ 0x40 ≤ b.toNat := by
  simp only [reservedOpcode, Bool.or_eq_true, Bool.and_eq_true, decide_eq_true_eq, or_assoc]

/-- Between the reserved ranges lie the opcodes of the map and nothing else (30_encoding.md R102, R103). -/
theorem exists_opcode_eq_iff {b : Byte} : (∃ i, opcode i = b) ↔ ¬ reservedOpcode b = true := by
  constructor
  · rintro ⟨i, rfl⟩
    obtain ⟨-, hfree, -⟩ := commandWord i
    simp [hfree]
  · intro h
    have hmem : b.toNat ∈ opcodeTable.map (fun e => e.1.toNat) := by
      rw [reservedOpcode_eq_true_iff] at h
      simp only [opcodeTable_opcodes, List.mem_append, List.mem_range'_1]
      omega
    obtain ⟨e, he, hb⟩ := List.mem_map.1 hmem
    exact ⟨e.2, (opcode_of_mem_opcodeTable e he).trans (BitVec.eq_of_toNat_eq hb)⟩

/-! ### Decoding and encoding -/

/-- OPC is the word modulo 256 (30_encoding.md R100). -/
theorem opcodeField_toNat (w : Word) : (opcodeField w).toNat = w.toNat % 256 := by
  simp [opcodeField, BitVec.extractLsb'_toNat]

theorem opcodeField_encodeWith (ign : BitVec 24) (i : Instr) : opcodeField (encodeWith ign i) = opcode i :=
  BitVec.extractLsb'_append_eq_right

/-- A word decodes to the command whose opcode its bits 7:0 hold (30_encoding.md R101, R105). -/
theorem decode_eq_ok_iff {w : Word} {i : Instr} : decode w = .ok i ↔ opcode i = opcodeField w := by
  rw [← lookup_opcodeTable_eq_some_iff, decode]
  cases opcodeTable.lookup (opcodeField w) <;> simp

/-- A word with a reserved opcode is rejected under that opcode (30_encoding.md R103). -/
theorem decode_of_reserved {w : Word} (h : reservedOpcode (opcodeField w) = true) :
    decode w = .error (.reservedOpcode (opcodeField w)) := by
  have hnone : opcodeTable.lookup (opcodeField w) = none := by
    rw [Option.eq_none_iff_forall_ne_some]
    intro i hi
    exact exists_opcode_eq_iff.1 ⟨i, lookup_opcodeTable_eq_some_iff.1 hi⟩ h
  rw [decode, hnone]

theorem exists_decode_of_not_reserved {w : Word} (h : ¬ reservedOpcode (opcodeField w) = true) : ∃ i, decode w = .ok i := by
  obtain ⟨i, hi⟩ := exists_opcode_eq_iff.2 h
  exact ⟨i, decode_eq_ok_iff.2 hi⟩

theorem decode_encodeWith (ign : BitVec 24) (i : Instr) : decode (encodeWith ign i) = .ok i :=
  decode_eq_ok_iff.2 (opcodeField_encodeWith ign i).symm

/-- The ignored bits and the command give back the whole word (30_encoding.md R105). -/
theorem encodeWith_of_decode {w : Word} {i : Instr} (h : decode w = .ok i) : encodeWith (w.extractLsb' 8 24) i = w := by
  rw [encodeWith, decode_eq_ok_iff.1 h, opcodeField]
  exact BitVec.extractLsb'_append_extractLsb' (w := 24)

end Sys2Proof

namespace Sys2Proof.Machine
open Spec

/-! ### Issue -/

theorem issue_of_decode {w : Word} {i : Instr} (h : decode w = .ok i) (s : State) : issue w s = exec i s := by
  rw [issue, h]

theorem issue_of_reserved {w : Word} (h : reservedOpcode (opcodeField w) = true) (s : State) :
    issue w s = .next (s.raise .illegalCmd (opcodeField w)) := by
  rw [issue, decode_of_reserved h]

/-- Every command is issued by the words that hold its opcode (30_encoding.md R105, 40_command_unit.md R130). -/
theorem issued_opcode (i : Instr) : Issued (opcode i).toNat i := by
  intro w s h
  rw [← opcodeField_toNat, BitVec.toNat_inj] at h
  exact issue_of_decode (decode_eq_ok_iff.2 h.symm) s

/-! ### The lanes of a colour word and `rgb2hsv` in numbers -/

theorem laneR_toNat (c : Word) : (laneR c).toNat = red c := by
  simp [laneR, red, BitVec.extractLsb'_toNat, Nat.shiftRight_eq_div_pow]

theorem laneG_toNat (c : Word) : (laneG c).toNat = green c := by
  simp [laneG, green, BitVec.extractLsb'_toNat, Nat.shiftRight_eq_div_pow]

theorem laneB_toNat (c : Word) : (laneB c).toNat = blue c := by
  simp [laneB, blue, BitVec.extractLsb'_toNat]

theorem spread_le_maxLane (c : Word) : spread c ≤ maxLane c := Nat.sub_le ..

/-- No lane exceeds another by more than the spread (41_color.md R151). -/
theorem lane_le_add_spread (c : Word) :
    ∀ x ∈ [red c, green c, blue c], ∀ y ∈ [red c, green c, blue c], x ≤ y + spread c := by
  have hx : ∀ x ∈ [red c, green c, blue c], x ≤ maxLane c := by simp [maxLane]
  have hy : ∀ y ∈ [red c, green c, blue c], min (red c) (min (green c) (blue c)) ≤ y := by simp
  intro x hxm y hym
  have := hx x hxm
  have := hy y hym
  unfold spread
  omega

/-- `rgb2hsv` with its maximum and its spread as natural numbers (41_color.md R151). -/
theorem rgb2hsv_eq (c : Word) : rgb2hsv c =
    { h := if (spread c : Int) = 0 then 0
           else if (maxLane c : Int) = red c then (60 * ((green c : Int) - blue c) + 360 * spread c) / spread c % 360
           else if (maxLane c : Int) = green c then (60 * ((blue c : Int) - red c) + 120 * spread c) / spread c
           else (60 * ((red c : Int) - green c) + 240 * spread c) / spread c
      s := if (maxLane c : Int) = 0 then 0 else 255 * spread c / maxLane c
      v := maxLane c } := by
  have hmax : max (red c : Int) (max (green c) (blue c)) = maxLane c := by simp [maxLane]
  have hspread : (maxLane c : Int) - min (red c : Int) (min (green c) (blue c)) = spread c := by
    unfold spread maxLane
    omega
  simp only [rgb2hsv, laneR_toNat, laneG_toNat, laneB_toNat, hmax, hspread]

theorem rgb2hsv_v (c : Word) : (rgb2hsv c).v = maxLane c := by rw [rgb2hsv_eq]

theorem rgb2hsv_s (c : Word) : (rgb2hsv c).s = satOf c := by
  simp only [rgb2hsv_eq, satOf]
  norm_cast

/-- No numerator of R151 is negative. -/
theorem hueNumerator_cast {x y d k : Nat} (h : y ≤ x + d) (hk : 60 ≤ k) :
    ((60 * x + k * d - 60 * y : Nat) : Int) = 60 * ((x : Int) - y) + k * d := by
  have := Nat.mul_le_mul_right d hk
  rw [Nat.cast_sub (by omega)]
  push_cast
  ring

theorem rgb2hsv_h (c : Word) : (rgb2hsv c).h = hueOf c := by
  have hgap := lane_le_add_spread c
  have hred := hueNumerator_cast (hgap (blue c) (by simp) (green c) (by simp)) (show 60 ≤ 360 by decide)
  have hgreen := hueNumerator_cast (hgap (red c) (by simp) (blue c) (by simp)) (show 60 ≤ 120 by decide)
  have hblue := hueNumerator_cast (hgap (green c) (by simp) (red c) (by simp)) (show 60 ≤ 240 by decide)
  simp only [Nat.cast_ofNat] at hred hgreen hblue
  simp only [rgb2hsv_eq, hueOf, ← hred, ← hgreen, ← hblue]
  norm_cast

/-- `255 * d / M` is at most 255, since `d ≤ M` (41_color.md R151). -/
theorem satOf_lt (c : Word) : satOf c < 256 := by
  unfold satOf
  split
  · decide
  · have h : 255 * spread c ≤ maxLane c * 255 := by have := spread_le_maxLane c; omega
    exact Nat.lt_succ_of_le (Nat.div_le_of_le_mul h)

/-- Each sector's numerator is below `360 * d`, red's by its remainder (41_color.md R151). -/
theorem hueOf_lt (c : Word) : hueOf c < 360 := by
  have hgap := lane_le_add_spread c
  unfold hueOf
  split
  · decide
  split
  · exact Nat.mod_lt _ (by decide)
  split
  · have := hgap (blue c) (by simp) (red c) (by simp)
    exact Nat.div_lt_of_lt_mul (by omega)
  · have := hgap (red c) (by simp) (green c) (by simp)
    exact Nat.div_lt_of_lt_mul (by omega)

/-! ### The results of TOHSV and CEQ -/

/-- HSVW is the sum of its fields at their bits (30_encoding.md R114). -/
theorem hsvWord_natCast {h s v : Nat} (hh : h < 360) (hs : s < 256) :
    hsvWord h s v = BitVec.ofNat 32 (v * 16777216 + s * 65536 + h) := by
  apply BitVec.eq_of_toNat_eq
  simp only [hsvWord, toNat_append_eq_add, BitVec.ofInt_natCast, BitVec.toNat_ofNat]
  omega

theorem exec_tohsv (s : State) :
    exec .tohsv s = .next (s.setRes (hsvWord (rgb2hsv s.arg0).h (rgb2hsv s.arg0).s (rgb2hsv s.arg0).v)) := rfl

theorem exec_ceq (s : State) : exec .ceq s = .next (s.setRes (boolWord (decide (s.arg0 = s.arg1)))) := rfl

end Sys2Proof.Machine

namespace Sys2Proof.Spec
open Sys2Proof.Machine

/-- Settles O2: a word decodes to the command whose opcode its bits 7:0 hold, and its two fields are the whole word. -/
theorem decodeAndEncodeAgree : Obligations.DecodeAndEncodeAgree :=
  ⟨fun i ign => decode_encodeWith ign i, fun _ _ => encodeWith_of_decode⟩

/-- Settles O3: the ranges are those of `reservedOpcode`, and the opcodes between them are those of the map. -/
theorem reservedOpcodesRaiseIllegalCmd : Obligations.ReservedOpcodesRaiseIllegalCmd := by
  intro w s
  simp only [← opcodeField_toNat, ← reservedOpcode_eq_true_iff, BitVec.ofNat_toNat, BitVec.setWidth_eq]
  refine ⟨fun h => issue_of_reserved h s, fun h => ?_⟩
  obtain ⟨i, hi⟩ := exists_decode_of_not_reserved h
  exact ⟨i, hi, issue_of_decode hi s⟩

/-- Settles O10: `rgb2hsv` in numbers, with the hue and the saturation inside their fields. -/
theorem tohsvPacksValueSaturationHue : Obligations.TohsvPacksValueSaturationHue := by
  refine ⟨issued_opcode .tohsv, fun s => ⟨hueOf_lt s.arg0, satOf_lt s.arg0, ?_⟩⟩
  rw [exec_tohsv, rgb2hsv_h, rgb2hsv_s, rgb2hsv_v, hsvWord_natCast (hueOf_lt _) (satOf_lt _)]
  rfl

/-- Settles O1: six words are encodings of their commands, two of them with ignored bits set; the seventh is reserved. -/
theorem wordsFromTheOpcodeMapDecode : Obligations.WordsFromTheOpcodeMapDecode :=
  ⟨decode_encodeWith 0#24 .nop, decode_encodeWith 0#24 .cpk24, decode_encodeWith 0xFFFFFF#24 .lerp,
    decode_encodeWith 0#24 .prand, decode_encodeWith 0#24 .showFrame, decode_encodeWith 0xABCDEF#24 .enc3,
    decode_of_reserved (w := 0x101#32) (by decide)⟩

/-- Settles O14: RES is the truth of ARG0 = ARG1 as a word. -/
theorem ceqComparesWholeWords : Obligations.CeqComparesWholeWords := by
  refine ⟨issued_opcode .ceq, fun s => ⟨fun h => ?_, fun h => ?_⟩⟩
  · rw [exec_ceq, decide_eq_true h]; rfl
  · rw [exec_ceq, decide_eq_false h]; rfl

end Sys2Proof.Spec
end

section
/-! Command unit (40_command_unit.md R130 to R136): the host's move and the held commands presented again, and what a command's
answer owes to ERR and RES. -/

namespace Sys2Proof.Machine

/-! ### The host's move (R130, R132, R133) -/

theorem hostMove_of_access {s : State} {a : Access} {rest : List HostOp} (hh : s.held = .empty)
    (hp : s.prog = .access a :: rest) : hostMove s = hostAccess a { s with prog := rest } := by
  rw [hostMove, hh, hp]

theorem hostMove_of_waitIdle {s : State} {rest : List HostOp} (hh : s.held = .empty) (hp : s.prog = .waitIdle :: rest) :
    hostMove s = pollStatus rest s := by
  rw [hostMove, hh, hp]

theorem hostMove_of_waitingShow {s : State} (hh : s.held = .waitingShow) :
    hostMove s = exec .showFrame { s with held := .empty } := by
  rw [hostMove, hh]

theorem hostMove_of_waitingCfg {s : State} (hh : s.held = .waitingCfg) : hostMove s = exec .cfg { s with held := .empty } := by
  rw [hostMove, hh]

theorem hostMove_of_blockingShow {s : State} (hh : s.held = .blockingShow) : hostMove s = .next s := by
  rw [hostMove, hh]

/-- STATUS does not depend on whose turn it is. -/
theorem State.takeTurn_status (s : State) : s.takeTurn.status = s.status := by
  simp [State.status, State.busy, State.errv, State.palOk]

/-- Whether a SHOW is ready does not depend on whose turn it is. -/
theorem State.takeTurn_showReady (s : State) : s.takeTurn.showReady = s.showReady := by simp [State.showReady]

/-! ### A held command whose condition does not hold (R132) -/

theorem State.showReady_eq_true {s : State} :
    s.showReady = true ↔ s.encState = .idle ∧ (isSpi s.config = true ∨ s.gapOk = true) := by
  simp [State.showReady]

/-- A CFG presented while a frame is in TX is held. -/
theorem exec_cfg_of_tx {s : State} (h : s.encState = .tx) : exec .cfg s = .next { s with held := .waitingCfg } :=
  congrArg Host.Outcome.next (if_neg (by simp [State.cfgReady_eq_true, h]))

theorem exec_cfg_of_error {s : State} {e : ErrCode} (hr : s.cfgReady = true)
    (hc : cfgCheck s.params s.arg0 s.arg1 = some e) :
    exec .cfg s = .next ({ s with cfgst := .failed }.raise e 0x30#8) := by
  rw [exec, execCfg, if_pos hr, hc]

theorem exec_cfg_of_pass {s : State} (hr : s.cfgReady = true) (hc : cfgCheck s.params s.arg0 s.arg1 = none) :
    exec .cfg s = .next (s.configure s.arg0 s.arg1) := by
  rw [exec, execCfg, if_pos hr, hc]

/-- A held SHOW presented too early is held again, and nothing has changed. -/
theorem hostMove_show_not_ready {s : State} (hh : s.held = .waitingShow) (hc : s.cfgst = .configured)
    (hr : s.showReady = false) : hostMove s = .next s := by
  have hr' : ¬ State.showReady { s with held := .empty } = true := ne_true_of_eq_false hr
  rw [hostMove_of_waitingShow hh, exec_show_of_configured (s := { s with held := .empty }) hc, if_neg hr']
  exact congrArg Host.Outcome.next (State.held_eta hh)

/-- A held CFG presented too early is held again, and nothing has changed. -/
theorem hostMove_cfg_not_ready {s : State} (hh : s.held = .waitingCfg) (htx : s.encState = .tx) :
    hostMove s = .next s := by
  rw [hostMove_of_waitingCfg hh, exec_cfg_of_tx (s := { s with held := .empty }) htx]
  exact congrArg Host.Outcome.next (State.held_eta hh)

/-! ### What a command's answer owes to ERR and RES (R134, R135) -/

/-- `s` with other contents of ERR and RES. -/
def State.withErrRes (s : State) (err res : Word) : State := { s with err := err, res := res }

/-- `s` after the command `i` has raised `e` (R135): nothing but ERR has changed, and CFGST for CFG alone
(43_encoder.md R216). -/
def State.failed (s : State) (i : Instr) (e : ErrCode) : State :=
  { s with err := errRecord s.err e (opcode i) false, cfgst := if i = .cfg then .failed else s.cfgst }

/-- What the command `i` answers on every state that differs from `s` in ERR and RES alone: the same error on each, the same
result on each, or the same effect on each, which leaves both registers as they were. -/
inductive ErrResCase (i : Instr) (s : State) : Prop where
  | error (e : ErrCode) (h : ∀ x v, exec i (s.withErrRes x v) = .next ((s.withErrRes x v).failed i e))
  | result (t : State) (h : ∀ x v, exec i (s.withErrRes x v) = .next (t.withErrRes x t.res))
  | effect (t : State) (h : ∀ x v, exec i (s.withErrRes x v) = .next (t.withErrRes x v))

/-- A command whose only action is `RES <- f`, with an `f` of neither register. -/
theorem ErrResCase.of_setRes {i : Instr} {s : State} {f : State → Word} (hexec : ∀ u, exec i u = .next (u.setRes (f u)))
    (hf : ∀ x v, f (s.withErrRes x v) = f s) : ErrResCase i s :=
  .result (s.setRes (f s)) fun x v => by rw [hexec, hf]; rfl

theorem State.failed_eq_raise {i : Instr} (hi : i ≠ .cfg) (s : State) (e : ErrCode) :
    s.failed i e = s.raise e (opcode i) := by
  rw [State.failed, if_neg hi]; rfl

/-- A sampling command with a result that neither register takes part in: PALN alone decides between error and result
(42_palette.md R190). -/
theorem ErrResCase.of_withPalette {i : Instr} {s : State} {k : State → State} (hi : i ≠ .cfg)
    (hexec : ∀ u, exec i u = .next (u.withPalette (opcode i) (k u)))
    (hk : ∀ x v, k (s.withErrRes x v) = (k s).withErrRes x (k s).res) : ErrResCase i s := by
  by_cases h : s.paln.toNat = 0
  · refine .error .invalidPalette fun x v => ?_
    rw [hexec, State.failed_eq_raise hi]
    exact congrArg Host.Outcome.next (if_pos h)
  · refine .result (k s) fun x v => ?_
    rw [hexec, hk]
    exact congrArg Host.Outcome.next (if_neg h)

/-- Filling pixels neither reads nor writes ERR and RES. -/
theorem State.fillPixels_withErrRes (f : Nat → Word) (n : Nat) (s : State) (x v : Word) :
    State.fillPixels f n (s.withErrRes x v) = (State.fillPixels f n s).withErrRes x v := by
  induction n with
  | zero => rfl
  | succ n ih => rw [State.fillPixels, ih]; rfl

/-- Every command is in one of the three cases; which one the checks of its own rule decide, and they read neither register. -/
theorem exec_errResCase (i : Instr) (s : State) : ErrResCase i s := by
  cases i
  case nop => exact .effect s fun _ _ => rfl
  case psetn =>
    by_cases h : s.arg0.toNat = 0 ∨ s.params.palCap < s.arg0.toNat
    · exact .error .invalidPalette fun _ _ => congrArg Host.Outcome.next (if_pos h)
    · exact .effect { s with paln := s.arg0 } fun _ _ => congrArg Host.Outcome.next (if_neg h)
  case pgeti => exact .of_withPalette (by decide) (fun _ => rfl) fun _ _ => rfl
  case pgetf => exact .of_withPalette (by decide) (fun _ => rfl) fun _ _ => rfl
  case prand => exact .of_withPalette (by decide) (fun _ => rfl) fun _ _ => rfl
  case cfg =>
    by_cases hr : s.cfgReady = true
    · cases hc : cfgCheck s.params s.arg0 s.arg1 with
      | some e => exact .error e fun _ _ => exec_cfg_of_error hr hc
      | none => exact .effect (s.configure s.arg0 s.arg1) fun _ _ => exec_cfg_of_pass hr hc
    · exact .effect { s with held := .waitingCfg } fun _ _ => congrArg Host.Outcome.next (if_neg hr)
  case showFrame =>
    by_cases hc : s.cfgst = .configured
    · by_cases hr : s.showReady = true
      · exact .effect s.acceptShow fun x v =>
          (exec_show_of_configured (s := s.withErrRes x v) hc).trans (congrArg Host.Outcome.next (if_pos hr))
      · exact .effect { s with held := .waitingShow } fun x v =>
          (exec_show_of_configured (s := s.withErrRes x v) hc).trans (congrArg Host.Outcome.next (if_neg hr))
    · exact .error .notConfigured fun _ _ => exec_show_of_not_configured hc
  case fill =>
    by_cases hc : s.cfgst = .configured
    · exact .effect (State.fillPixels (fun _ => s.arg0) s.npix.toNat s) fun x v =>
        congrArg Host.Outcome.next ((if_pos hc).trans (s.fillPixels_withErrRes _ _ x v))
    · exact .error .notConfigured fun _ _ => congrArg Host.Outcome.next (if_neg hc)
  case pfill =>
    by_cases hc : s.cfgst = .configured
    · by_cases hp : s.paln.toNat = 0
      · exact .error .invalidPalette fun _ _ => congrArg Host.Outcome.next ((if_pos hc).trans (if_pos hp))
      · exact .effect (State.fillPixels (fun i => s.pal (i % s.paln.toNat)) s.npix.toNat s) fun x v =>
          congrArg Host.Outcome.next ((if_pos hc).trans ((if_neg hp).trans (s.fillPixels_withErrRes _ _ x v)))
    · exact .error .notConfigured fun _ _ => congrArg Host.Outcome.next (if_neg hc)
  case pixr =>
    by_cases hc : s.cfgst = .configured
    · exact .result (s.setRes (s.pix (wrapIndex (signedIndex s.arg0) s.npix.toNat)))
        fun _ _ => congrArg Host.Outcome.next (if_pos hc)
    · exact .error .notConfigured fun _ _ => congrArg Host.Outcome.next (if_neg hc)
  all_goals exact .of_setRes (fun _ => rfl) fun _ _ => rfl

/-- On a clear ERR, recording an error sets CODE to its code (60_exceptions.md R283). -/
theorem errCode_errRecord_clear (e : ErrCode) (opc : Byte) (acc : Bool) : errCode (errRecord 0#32 e opc acc) = e.code := by
  rw [errRecord_first (by decide), errSet_code]

end Sys2Proof.Machine

namespace Sys2Proof.Spec
open Sys2Proof.Machine

/-- Settles O5: the step is the host's move (`step_host`), which presents the held command again; the turn changes none of
what the conditions speak of. -/
theorem heldCommandWaitsForItsCondition : Obligations.HeldCommandWaitsForItsCondition := by
  intro s hl ht hs
  have hmove := step_host hl ht hs
  rw [← State.showReady_eq_true, Bool.not_eq_true, hmove]
  refine ⟨fun hh hc hr => ?_, fun hh htx => ?_, fun hh _ _ _ => ?_, fun hh _ => ?_, fun hh => ?_⟩
  · exact hostMove_show_not_ready (by simpa) (by simpa) (s.takeTurn_showReady.trans hr)
  · exact hostMove_cfg_not_ready (by simpa) (by simpa)
  · exact hostMove_of_waitingShow (by simpa)
  · exact hostMove_of_waitingCfg (by simpa)
  · exact hostMove_of_blockingShow (by simpa)

/-- Settles O30: by the case of the command (`exec_errResCase`), read on a clear ERR and on the state's own. -/
theorem erringCommandsChangeOnlyErr : Obligations.ErringCommandsChangeOnlyErr := by
  intro i s t ht
  cases exec_errResCase i s with
  | error e h =>
    cases (h 0#32 s.res).symm.trans ht
    have hcode : errCode (errRecord 0#32 e (opcode i) false) = e.code := errCode_errRecord_clear e _ _
    refine ⟨fun _ => ⟨e, hcode, h s.err s.res⟩, fun hzero => ?_⟩
    exact absurd (congrArg errCode hzero) (errRecord_code_ne_zero _ _ _ _)
  | result u h =>
    cases (h 0#32 s.res).symm.trans ht
    exact ⟨fun hne => absurd rfl hne, fun _ => ⟨_, h s.err s.res, rfl⟩⟩
  | effect u h =>
    cases (h 0#32 s.res).symm.trans ht
    exact ⟨fun hne => absurd rfl hne, fun _ => ⟨_, h s.err s.res, rfl⟩⟩

/-- Settles O32: by the case of the command (`exec_errResCase`), read on the state's RES and on the other. -/
theorem noCommandReadsRes : Obligations.NoCommandReadsRes := by
  intro i s t t' v ht ht'
  cases exec_errResCase i s with
  | error e h =>
    cases (h s.err s.res).symm.trans ht
    cases (h s.err v).symm.trans ht'
    exact ⟨rfl, .inr ⟨rfl, rfl⟩⟩
  | result u h =>
    cases (h s.err s.res).symm.trans ht
    cases (h s.err v).symm.trans ht'
    exact ⟨rfl, .inl rfl⟩
  | effect u h =>
    cases (h s.err s.res).symm.trans ht
    cases (h s.err v).symm.trans ht'
    exact ⟨rfl, .inr ⟨rfl, rfl⟩⟩

/-- Settles O4: each turn is its agent's move on the state whose turn is used up; a CMD write is one of the accesses. -/
theorem stepRunsTheDecodedCommand : Obligations.StepRunsTheDecodedCommand := by
  have haccess : ∀ (s : State) (a : Access) (rest : List HostOp), s.params.legal = true → s.nextTurn = .host →
      s.held = .empty → s.prog = .access a :: rest → step s = hostAccess a { s.takeTurn with prog := rest } :=
    fun s a rest hl ht hh hp => by
      rw [step_host hl ht (State.stuck_of_empty hh), hostMove_of_access (by simpa) (by simpa)]
  refine ⟨fun s hl => ⟨fun w i rest ht hh hp hd => ?_, fun a rest => haccess s a rest hl, fun rest ht hh hp => ?_,
    step_encoder hl, step_reset hl⟩, hostAccess_cmdWrite, fun w i s hd => issue_of_decode hd s⟩
  · rw [haccess s _ rest hl ht hh hp, hostAccess_cmdWrite, issue_of_decode hd]
  · rw [step_host hl ht (State.stuck_of_empty hh), hostMove_of_waitIdle (by simpa) (by simpa), pollStatus_eq,
      State.takeTurn_status, State.takeTurn_prog, State.observe, State.takeTurn_reads]

/-- Settles O6: opcode 0x00 is NOP's (`issued_opcode`), and NOP answers the state it is given. -/
theorem nopChangesNothing : Obligations.NopChangesNothing := ⟨issued_opcode .nop, fun _ => rfl⟩

end Sys2Proof.Spec
end

section
/-! Colour unit (41_color.md): the operands and the lanes of a colour word as numbers, the colour of a sector, the lane-wise
operations, and the way back from a colour of HSV to its hue. -/

namespace Sys2Proof.Machine
open Spec

/-- A factor `k / n` of at most 1 takes no number above itself. -/
theorem mul_div_le_self {k n : Nat} (hk : k ≤ n) (a : Nat) : a * k / n ≤ a :=
  Nat.div_le_of_le_mul (Nat.mul_comm a n ▸ Nat.mul_le_mul_left a hk)

/-! ### Operands as numbers (R143, R144, R153) -/

theorem low16_toNat (w : Word) : (low16 w).toNat = w.toNat % 65536 := by
  simp [low16, BitVec.extractLsb'_toNat]

theorem low16_toInt (w : Word) : (low16 w).toInt =
    if w.toNat % 65536 < 32768 then ((w.toNat % 65536 : Nat) : Int) else (w.toNat % 65536 : Nat) - 65536 := by
  rw [BitVec.toInt_eq_toNat_cond, low16_toNat]
  split <;> split <;> omega

theorem channel_eq (w : Word) : channel w = (lowByte w : Nat) := by
  simp [channel, low8, lowByte, BitVec.extractLsb'_toNat]

theorem hueDegrees_low16 (w : Word) : hueDegrees (low16 w) = (degreesOf w : Nat) := by
  rw [hueDegrees, low16_toInt, degreesOf]
  split <;> omega

theorem hueFraction_low16 (w : Word) : hueFraction (low16 w) = (turnOf w : Nat) := by
  rw [hueFraction, low16_toNat, turnOf]
  norm_cast

theorem fractionK_low16 (w : Word) : fractionK (low16 w) = fractionOf w := by
  rw [fractionK, low16_toInt, fractionOf]
  split_ifs <;> omega

theorem lowByte_le (w : Word) : lowByte w ≤ 255 := Nat.le_of_lt_succ (Nat.mod_lt _ (by decide))

theorem fractionOf_le (w : Word) : fractionOf w ≤ 256 := by
  unfold fractionOf
  split
  · decide
  · split <;> omega

/-! ### The four lanes -/

theorem laneW_toNat (c : Word) : (laneW c).toNat = white c := by
  have := c.isLt
  simp only [laneW, white, BitVec.extractLsb'_toNat, Nat.shiftRight_eq_div_pow]
  omega

/-- A colour word is the sum of its lanes at their bits (00_scope.md R14). -/
theorem rgbw_toNat (w r g b : Byte) :
    (rgbw w r g b).toNat = w.toNat * 16777216 + r.toNat * 65536 + g.toNat * 256 + b.toNat := by
  simp only [rgbw, toNat_append_eq_add]
  omega

@[simp] theorem white_rgbw (w r g b : Byte) : white (rgbw w r g b) = w.toNat := by
  have := r.isLt; have := g.isLt; have := b.isLt
  rw [white, rgbw_toNat]
  omega

@[simp] theorem red_rgbw (w r g b : Byte) : red (rgbw w r g b) = r.toNat := by
  have := r.isLt; have := g.isLt; have := b.isLt
  rw [red, rgbw_toNat]
  omega

@[simp] theorem green_rgbw (w r g b : Byte) : green (rgbw w r g b) = g.toNat := by
  have := g.isLt; have := b.isLt
  rw [green, rgbw_toNat]
  omega

@[simp] theorem blue_rgbw (w r g b : Byte) : blue (rgbw w r g b) = b.toNat := by
  have := b.isLt
  rw [blue, rgbw_toNat]
  omega

/-- Each lane is a byte of the word, on which the lane-wise operations act alone (00_scope.md R14). -/
theorem exists_laneByte {l : Word → Nat} (hl : l ∈ lanes) : ∃ byte : Word → Byte, (∀ c, l c = (byte c).toNat) ∧
    (∀ f c, l (mapLanes f c) = (f (byte c)).toNat) ∧ ∀ f a b, l (zipLanes f a b) = (f (byte a) (byte b)).toNat := by
  simp only [lanes, List.mem_cons, List.not_mem_nil, or_false] at hl
  obtain rfl | rfl | rfl | rfl := hl
  · exact ⟨laneW, fun c => (laneW_toNat c).symm, fun _ _ => white_rgbw .., fun _ _ _ => white_rgbw ..⟩
  · exact ⟨laneR, fun c => (laneR_toNat c).symm, fun _ _ => red_rgbw .., fun _ _ _ => red_rgbw ..⟩
  · exact ⟨laneG, fun c => (laneG_toNat c).symm, fun _ _ => green_rgbw .., fun _ _ _ => green_rgbw ..⟩
  · exact ⟨laneB, fun c => (laneB_toNat c).symm, fun _ _ => blue_rgbw .., fun _ _ _ => blue_rgbw ..⟩

/-- The four lanes are the whole word. -/
theorem toNat_eq_lanes (c : Word) : c.toNat = white c * 16777216 + red c * 65536 + green c * 256 + blue c := by
  unfold white red green blue
  omega

theorem eq_of_lanes {a b : Word} (h : ∀ l ∈ lanes, l a = l b) : a = b := by
  simp only [lanes, List.forall_mem_cons] at h
  obtain ⟨hw, hr, hg, hb, -⟩ := h
  rw [← BitVec.toNat_inj, toNat_eq_lanes a, toNat_eq_lanes b, hw, hr, hg, hb]

/-! ### The lane-wise operations (R154, R157) -/

/-- The numerator of R154 is at most 255 * 256 + 128. -/
theorem blendLane_toNat {k : Nat} (hk : k ≤ 256) (a b : Byte) :
    (blendLane k a b).toNat = (a.toNat * (256 - k) + b.toNat * k + 128) / 256 := by
  have ha := Nat.mul_le_mul_right (256 - k) (Nat.le_of_lt_succ a.isLt)
  have hb := Nat.mul_le_mul_right k (Nat.le_of_lt_succ b.isLt)
  rw [blendLane, BitVec.toNat_ofNat]
  omega

theorem lane_blend {k : Nat} (hk : k ≤ 256) {l : Word → Nat} (hl : l ∈ lanes) (a b : Word) :
    l (blend a b k) = (l a * (256 - k) + l b * k + 128) / 256 := by
  obtain ⟨byte, hbyte, -, hzip⟩ := exists_laneByte hl
  rw [blend, hzip, blendLane_toNat hk, hbyte, hbyte]

theorem blend_zero (a b : Word) : blend a b 0 = a :=
  eq_of_lanes fun l hl => by rw [lane_blend (Nat.zero_le _) hl]; omega

/-- The weight 256 is one in F16 (30_encoding.md R107). -/
theorem blend_full (a b : Word) : blend a b 256 = b :=
  eq_of_lanes fun l hl => by rw [lane_blend (Nat.le_refl _) hl]; omega

/-- The two sums of R154 are the same expression. -/
theorem blend_swap {k : Nat} (hk : k ≤ 256) (a b : Word) : blend b a (256 - k) = blend a b k :=
  eq_of_lanes fun l hl => by
    rw [lane_blend (Nat.sub_le _ _) hl, lane_blend hk hl, Nat.sub_sub_self hk, Nat.add_comm (l a * _)]

theorem lane_le {l : Word → Nat} (hl : l ∈ lanes) (c : Word) : l c ≤ 255 := by
  obtain ⟨byte, hbyte, -⟩ := exists_laneByte hl
  rw [hbyte]
  exact Nat.le_of_lt_succ (byte c).isLt

/-- The minimum of R157 never binds. -/
theorem lane_scale {k : Nat} (hk : k ≤ 256) {l : Word → Nat} (hl : l ∈ lanes) (c : Word) :
    l (mapLanes (scaleLane k) c) = l c * k / 256 := by
  obtain ⟨byte, hbyte, hmap, -⟩ := exists_laneByte hl
  have h := (mul_div_le_self hk (l c)).trans (lane_le hl c)
  rw [hbyte] at h
  rw [hmap, hbyte, scaleLane, BitVec.toNat_ofNat]
  omega

theorem scale_zero (c : Word) : mapLanes (scaleLane 0) c = 0x00000000#32 := by
  have hlane : scaleLane 0 = fun _ => 0#8 := by funext a; simp [scaleLane]
  rw [hlane]
  exact (by decide : rgbw 0#8 0#8 0#8 0#8 = 0x00000000#32)

theorem scale_full (c : Word) : mapLanes (scaleLane 256) c = c :=
  eq_of_lanes fun l hl => by rw [lane_scale (Nat.le_refl _) hl]; omega

/-! ### The colour of a sector (R145, R148) -/

theorem secondComponent_natCast (h c : Nat) : secondComponent h c = (secondLane h c : Nat) := by
  have hf : h % 60 ≤ 60 := (Nat.mod_lt _ (by decide)).le
  unfold secondComponent secondLane
  push_cast [hf]
  norm_cast

theorem secondLane_le (h c : Nat) : secondLane h c ≤ c := by
  refine mul_div_le_self ?_ c
  split <;> omega

theorem sectorTable_natCast (h c x : Nat) : sectorTable ((h : Int) / 60) c x =
    (((sectorLanes h c x).1 : Int), ((sectorLanes h c x).2.1 : Int), ((sectorLanes h c x).2.2 : Int)) := by
  have hcast : (h : Int) / 60 = (h / 60 : Nat) := by norm_cast
  rw [hcast]
  unfold sectorLanes
  generalize h / 60 = k
  match k with
  | 0 | 1 | 2 | 3 | 4 | _ + 5 => rfl

/-- The three lanes of a hue at chroma `c`, before the match value is added. -/
abbrev hueLanes (h c : Nat) : Nat × Nat × Nat := sectorLanes h c (secondLane h c)

/-- The largest of the three lanes is the chroma and the smallest is 0. -/
theorem hueLanes_max_min (h c : Nat) : max (hueLanes h c).1 (max (hueLanes h c).2.1 (hueLanes h c).2.2) = c ∧
    min (hueLanes h c).1 (min (hueLanes h c).2.1 (hueLanes h c).2.2) = 0 := by
  have hx := secondLane_le h c
  unfold hueLanes sectorLanes
  split <;> simp [hx]

theorem fromChroma_natCast (h c m : Nat) : fromChroma h c m = rgbw 0#8 (BitVec.ofNat 8 ((hueLanes h c).1 + m))
    (BitVec.ofNat 8 ((hueLanes h c).2.1 + m)) (BitVec.ofNat 8 ((hueLanes h c).2.2 + m)) := by
  simp only [fromChroma, secondComponent_natCast, sectorTable_natCast, ← Nat.cast_add, BitVec.ofInt_natCast]

theorem white_fromChroma (h c m : Nat) : white (fromChroma h c m) = 0 := by simp [fromChroma_natCast]

section
variable {h c m : Nat} (hcm : c + m ≤ 255)
include hcm

/-- No lane of the colour overflows. -/
theorem red_fromChroma : red (fromChroma h c m) = (hueLanes h c).1 + m := by
  have := hueLanes_max_min h c
  rw [fromChroma_natCast, red_rgbw, BitVec.toNat_ofNat]
  omega

theorem green_fromChroma : green (fromChroma h c m) = (hueLanes h c).2.1 + m := by
  have := hueLanes_max_min h c
  rw [fromChroma_natCast, green_rgbw, BitVec.toNat_ofNat]
  omega

theorem blue_fromChroma : blue (fromChroma h c m) = (hueLanes h c).2.2 + m := by
  have := hueLanes_max_min h c
  rw [fromChroma_natCast, blue_rgbw, BitVec.toNat_ofNat]
  omega

theorem maxLane_fromChroma : maxLane (fromChroma h c m) = c + m := by
  have := hueLanes_max_min h c
  rw [maxLane, red_fromChroma hcm, green_fromChroma hcm, blue_fromChroma hcm]
  omega

theorem spread_fromChroma : spread (fromChroma h c m) = c := by
  have := hueLanes_max_min h c
  rw [spread, maxLane_fromChroma hcm, red_fromChroma hcm, green_fromChroma hcm, blue_fromChroma hcm]
  omega

theorem fromChroma_toNat : (fromChroma h c m).toNat = colourNumber h c m := by
  rw [toNat_eq_lanes, white_fromChroma, red_fromChroma hcm, green_fromChroma hcm, blue_fromChroma hcm,
    Nat.zero_mul, Nat.zero_add, colourNumber]

theorem lane_fromChroma_le {l : Word → Nat} (hl : l ∈ lanes) : l (fromChroma h c m) ≤ c + m := by
  have := hueLanes_max_min h c
  simp only [lanes, List.mem_cons, List.not_mem_nil, or_false] at hl
  obtain rfl | rfl | rfl | rfl := hl
  · rw [white_fromChroma]; omega
  · rw [red_fromChroma hcm]; omega
  · rw [green_fromChroma hcm]; omega
  · rw [blue_fromChroma hcm]; omega

end

/-! ### HSV and HSL (R145, R148) -/

theorem hsv2rgb_natCast {s : Nat} (hs : s ≤ 255) (h v : Nat) :
    hsv2rgb h s v = fromChroma h (v * s / 255 : Nat) (v - v * s / 255 : Nat) := by
  have hc : hsvChroma s v = (v * s / 255 : Nat) := by rw [hsvChroma]; norm_cast
  rw [hsv2rgb, hc, Nat.cast_sub (mul_div_le_self hs v)]

theorem hsv2rgb_toNat {s v : Nat} (hs : s ≤ 255) (hv : v ≤ 255) (h : Nat) : (hsv2rgb h s v).toNat = hsvNumber h s v := by
  have hc := mul_div_le_self hs v
  rw [hsv2rgb_natCast hs, fromChroma_toNat (by omega), hsvNumber]

theorem white_hsv2rgb {s : Nat} (hs : s ≤ 255) (h v : Nat) : white (hsv2rgb h s v) = 0 := by
  rw [hsv2rgb_natCast hs, white_fromChroma]

theorem lane_hsv2rgb_le {s v : Nat} (hs : s ≤ 255) (hv : v ≤ 255) (h : Nat) {l : Word → Nat} (hl : l ∈ lanes) :
    l (hsv2rgb h s v) ≤ v := by
  have hc := mul_div_le_self hs v
  rw [hsv2rgb_natCast hs]
  exact (lane_fromChroma_le (by omega) hl).trans (by omega)

/-- Twice the distance of the lightness from its nearer end bounds the HSL chroma. -/
theorem hslChromaNat_le {s l : Nat} (hs : s ≤ 255) (hl : l ≤ 255) :
    hslChromaNat s l ≤ 2 * l ∧ hslChromaNat s l + 2 * l ≤ 510 := by
  have h : hslChromaNat s l ≤ 255 - (if 2 * l ≤ 255 then 255 - 2 * l else 2 * l - 255) := mul_div_le_self hs _
  split at h <;> omega

theorem hsl2rgb_natCast {s l : Nat} (hs : s ≤ 255) (hl : l ≤ 255) (h : Nat) :
    hsl2rgb h s l = fromChroma h (hslChromaNat s l) (l - hslChromaNat s l / 2 : Nat) := by
  have hc : hslChroma s l = hslChromaNat s l := by
    have habs : 255 - ((2 * (l : Int) - 255).natAbs : Int) =
        (255 - (if 2 * l ≤ 255 then 255 - 2 * l else 2 * l - 255) : Nat) := by split <;> omega
    rw [hslChroma, habs, hslChromaNat]
    norm_cast
  have hle := hslChromaNat_le hs hl
  rw [hsl2rgb, hc, Nat.cast_sub (by omega)]
  norm_cast

theorem hsl2rgb_toNat {s l : Nat} (hs : s ≤ 255) (hl : l ≤ 255) (h : Nat) : (hsl2rgb h s l).toNat = hslNumber h s l := by
  have hle := hslChromaNat_le hs hl
  rw [hsl2rgb_natCast hs hl, fromChroma_toNat (by omega), hslNumber]

theorem white_hsl2rgb {s l : Nat} (hs : s ≤ 255) (hl : l ≤ 255) (h : Nat) : white (hsl2rgb h s l) = 0 := by
  rw [hsl2rgb_natCast hs hl, white_fromChroma]

/-! ### SAT (R158) -/

theorem maxLane_le (c : Word) : maxLane c ≤ 255 := by
  have hr := lane_le (l := red) (by simp [lanes]) c
  have hg := lane_le (l := green) (by simp [lanes]) c
  have hb := lane_le (l := blue) (by simp [lanes]) c
  unfold maxLane
  omega

theorem saturate_toNat {a : Nat} (ha : a ≤ 255) (x : Word) :
    (saturate x a).toNat = white x * 16777216 + hsvNumber (hueOf x) a (maxLane x) := by
  have hmax := maxLane_le x
  have hwhite := white_hsv2rgb ha (hueOf x) (maxLane x)
  rw [white, hsv2rgb_toNat ha hmax] at hwhite
  rw [saturate, toNat_append_eq_add, BitVec.extractLsb'_toNat, laneW_toNat, rgb2hsv_h, rgb2hsv_v, hsv2rgb_toNat ha hmax]
  omega

theorem white_saturate (x : Word) (a : Int) : white (saturate x a) = white x := by
  rw [saturate, white, toNat_append_eq_add, laneW_toNat]
  omega

/-! ### The colour commands' answers, operands as numbers -/

theorem exec_cpk24 (s : State) : exec .cpk24 s = .next (s.setRes (0#8 ++ s.arg0.extractLsb' 0 24)) := rfl

theorem exec_hsvd (s : State) :
    exec .hsvd s = .next (s.setRes (hsv2rgb (degreesOf s.arg0) (lowByte s.arg1) (lowByte s.arg2))) := by
  rw [exec, execHsvd, hueDegrees_low16, channel_eq, channel_eq]

theorem exec_hsvf (s : State) :
    exec .hsvf s = .next (s.setRes (hsv2rgb (turnOf s.arg0) (lowByte s.arg1) (lowByte s.arg2))) := by
  rw [exec, execHsvf, hueFraction_low16, channel_eq, channel_eq]

theorem exec_hsld (s : State) :
    exec .hsld s = .next (s.setRes (hsl2rgb (degreesOf s.arg0) (lowByte s.arg1) (lowByte s.arg2))) := by
  rw [exec, execHsld, hueDegrees_low16, channel_eq, channel_eq]

theorem exec_hslf (s : State) :
    exec .hslf s = .next (s.setRes (hsl2rgb (turnOf s.arg0) (lowByte s.arg1) (lowByte s.arg2))) := by
  rw [exec, execHslf, hueFraction_low16, channel_eq, channel_eq]

theorem exec_lerp (s : State) : exec .lerp s = .next (s.setRes (blend s.arg0 s.arg1 (fractionOf s.arg2))) := by
  rw [exec, execLerp, fractionK_low16]

theorem exec_rlerp (s : State) : exec .rlerp s = .next (s.setRes (blend s.arg0 s.arg1 (256 - fractionOf s.arg2))) := by
  rw [exec, execRlerp, fractionK_low16]

theorem exec_scale (s : State) :
    exec .scale s = .next (s.setRes (mapLanes (scaleLane (fractionOf s.arg2)) s.arg0)) := by
  rw [exec, execScale, fractionK_low16]

theorem exec_sat (s : State) : exec .sat s = .next (s.setRes (saturate s.arg0 (lowByte s.arg1))) := by
  rw [exec, execSat, channel_eq]

/-- A word is the number it stands for. -/
theorem setRes_of_toNat {v : Word} {n : Nat} (h : v.toNat = n) (s : State) :
    s.setRes v = { s with res := BitVec.ofNat 32 n } := by
  rw [State.setRes, ← h, BitVec.ofNat_toNat, BitVec.setWidth_eq]

/-! ### The way back from HSV to the hue (R151, R162) -/

theorem hueOf_of_red {c : Word} (hd : spread c ≠ 0) (hmax : maxLane c = red c) :
    hueOf c = (60 * green c + 360 * spread c - 60 * blue c) / spread c % 360 := by
  rw [hueOf, if_neg hd, if_pos hmax]

/-- A tie with red is no exception: the lanes then lie at 60 degrees, where both formulas agree. -/
theorem hueOf_of_green {c : Word} (hd : spread c ≠ 0) (hmax : maxLane c = green c) :
    hueOf c = (60 * blue c + 120 * spread c - 60 * red c) / spread c % 360 := by
  by_cases htie : maxLane c = red c
  · have hmin : spread c + blue c = maxLane c := by unfold spread maxLane at *; omega
    have hr : 60 * green c + 360 * spread c - 60 * blue c = 420 * spread c := by omega
    have hg : 60 * blue c + 120 * spread c - 60 * red c = 60 * spread c := by omega
    rw [hueOf_of_red hd htie, hr, hg, Nat.mul_div_cancel _ (by omega), Nat.mul_div_cancel _ (by omega)]
  · have hlt := hueOf_lt c
    rw [hueOf, if_neg hd, if_neg htie, if_pos hmax] at hlt ⊢
    exact (Nat.mod_eq_of_lt hlt).symm

/-- Nor is a tie with red or green: at 300 and at 180 degrees the formulas agree. -/
theorem hueOf_of_blue {c : Word} (hd : spread c ≠ 0) (hmax : maxLane c = blue c) :
    hueOf c = (60 * red c + 240 * spread c - 60 * green c) / spread c % 360 := by
  by_cases hred : maxLane c = red c
  · have hmin : spread c + green c = maxLane c := by unfold spread maxLane at *; omega
    have hr : 60 * green c + 360 * spread c - 60 * blue c = 300 * spread c := by omega
    have hb : 60 * red c + 240 * spread c - 60 * green c = 300 * spread c := by omega
    rw [hueOf_of_red hd hred, hr, hb]
  by_cases hgreen : maxLane c = green c
  · have hmin : spread c + red c = maxLane c := by unfold spread maxLane at *; omega
    have hg : 60 * blue c + 120 * spread c - 60 * red c = 180 * spread c := by omega
    have hb : 60 * red c + 240 * spread c - 60 * green c = 180 * spread c := by omega
    rw [hueOf_of_green hd hgreen, hg, hb]
  · have hlt := hueOf_lt c
    rw [hueOf, if_neg hd, if_neg hred, if_neg hgreen] at hlt ⊢
    exact (Nat.mod_eq_of_lt hlt).symm

/-- What R145 loses in the second component is at most the chroma once that is 54 or more: below 60 the chroma `60 - j` and
60 share the divisor `j`, so the remainder is a multiple of `j` and at most `60 - j`. -/
theorem mul_mod_sixty_le {c : Nat} (hc : 54 ≤ c) (u : Nat) : c * u % 60 ≤ c := by
  by_cases h : c < 60
  · interval_cases c <;> omega
  · exact (Nat.mod_lt _ (by decide)).le.trans (by omega)

/-- The second component places the hue in its sector, counted from the sector's start in an even sector and from its end in an
odd one, with an error of at most the chroma. -/
theorem secondLane_near {c : Nat} (hc : 54 ≤ c) (h : Nat) :
    (h / 60 % 2 = 0 → 60 * (h / 60) * c + 60 * secondLane h c ≤ h * c ∧
      h * c ≤ 60 * (h / 60) * c + 60 * secondLane h c + c) ∧
    (h / 60 % 2 = 1 → h * c + 60 * secondLane h c ≤ 60 * (h / 60 + 1) * c ∧
      60 * (h / 60 + 1) * c ≤ h * c + 60 * secondLane h c + c) := by
  have hsplit : h * c = 60 * (h / 60) * c + c * (h % 60) := by
    rw [Nat.mul_comm c, ← Nat.add_mul, Nat.div_add_mod]
  refine ⟨fun heven => ?_, fun hodd => ?_⟩
  · have := mul_mod_sixty_le hc (h % 60)
    rw [secondLane, if_pos heven]
    omega
  · have := mul_mod_sixty_le hc (60 - h % 60)
    have hrest : c * (60 - h % 60) + c * (h % 60) = 60 * c := by
      rw [← Nat.mul_add, Nat.sub_add_cancel (Nat.mod_lt _ (by decide)).le, Nat.mul_comm]
    rw [secondLane, if_neg (by omega), Nat.mul_add, Nat.add_mul]
    omega

/-- The numerator of R151 for the colour of a hue: the hue times the chroma, up to whole turns and an error of at most the
chroma. -/
theorem exists_hueNumerator {h c m : Nat} (hh : h < 360) (hc : 54 ≤ c) (hcm : c + m ≤ 255) :
    ∃ n k, hueOf (fromChroma h c m) = n / c % 360 ∧ h * c + 360 * k * c ≤ n + c ∧ n ≤ h * c + 360 * k * c + c := by
  have hd : spread (fromChroma h c m) ≠ 0 := by rw [spread_fromChroma hcm]; omega
  have hx := secondLane_le h c
  obtain ⟨heven, hodd⟩ := secondLane_near hc h
  have hred := hueOf_of_red hd
  have hgreen := hueOf_of_green hd
  have hblue := hueOf_of_blue hd
  rw [maxLane_fromChroma hcm, spread_fromChroma hcm, red_fromChroma hcm, green_fromChroma hcm, blue_fromChroma hcm]
    at hred hgreen hblue
  have hs : h / 60 = 0 ∨ h / 60 = 1 ∨ h / 60 = 2 ∨ h / 60 = 3 ∨ h / 60 = 4 ∨ h / 60 = 5 := by omega
  rcases hs with hs | hs | hs | hs | hs | hs
  all_goals simp only [hueLanes, sectorLanes, hs, forall_const] at hred hgreen hblue heven hodd
  · exact ⟨_, 1, hred, by omega, by omega⟩
  · exact ⟨_, 0, hgreen, by omega, by omega⟩
  · exact ⟨_, 0, hgreen, by omega, by omega⟩
  · exact ⟨_, 0, hblue, by omega, by omega⟩
  · exact ⟨_, 0, hblue, by omega, by omega⟩
  · exact ⟨_, 0, hred, by omega, by omega⟩

/-- A quotient whose numerator is that near is a hue within one degree, on the circle. -/
theorem circular_error_le_one {h c n k : Nat} (hc : 0 < c) (hlo : h * c + 360 * k * c ≤ n + c)
    (hhi : n ≤ h * c + 360 * k * c + c) :
    min (((h : Int) - (n / c % 360 : Nat)) % 360) (((n / c % 360 : Nat) - (h : Int)) % 360) ≤ 1 := by
  have hle : h + 360 * k ≤ n / c + 1 := by
    rw [← Nat.add_div_right n hc, Nat.le_div_iff_mul_le hc, Nat.add_mul]
    exact hlo
  have hge : n / c ≤ h + 360 * k + 1 := by
    refine Nat.div_le_of_le_mul ?_
    rw [Nat.mul_comm, Nat.add_mul, Nat.add_mul, Nat.one_mul]
    exact hhi
  omega

end Sys2Proof.Machine

namespace Sys2Proof.Spec
open Sys2Proof.Machine

/-- Settles O17: the value is the largest lane (`maxLane_fromChroma`), and the numerator of the hue is near enough to the hue
times the chroma (`exists_hueNumerator`). -/
theorem hsvRoundTripRecoversTheHue : Obligations.HsvRoundTripRecoversTheHue := by
  intro h s v hh hs hv
  have hle := mul_div_le_self (Nat.le_of_lt_succ hs) v
  have hcm : v * s / 255 + (v - v * s / 255) ≤ 255 := by omega
  simp only [rgb2hsv_v, rgb2hsv_h, hsv2rgb_natCast (Nat.le_of_lt_succ hs)]
  refine ⟨?_, fun hc => ?_⟩
  · rw [maxLane_fromChroma hcm, Nat.add_sub_cancel' hle]
  · obtain ⟨n, k, heq, hlo, hhi⟩ := exists_hueNumerator hh hc hcm
    rw [heq]
    exact circular_error_le_one (by omega) hlo hhi

/-- Settles O8: on operands in their ranges `hsv2rgb` is the number (`hsv2rgb_toNat`). -/
theorem hsvCommandsBuildTheSectorColour : Obligations.HsvCommandsBuildTheSectorColour := by
  refine ⟨issued_opcode .hsvd, issued_opcode .hsvf, fun s => ⟨?_, ?_⟩⟩
  · rw [exec_hsvd, setRes_of_toNat (hsv2rgb_toNat (lowByte_le _) (lowByte_le _) _)]
  · rw [exec_hsvf, setRes_of_toNat (hsv2rgb_toNat (lowByte_le _) (lowByte_le _) _)]

/-- Settles O9: on operands in their ranges `hsl2rgb` is the number (`hsl2rgb_toNat`). -/
theorem hslCommandsBuildThePiecewiseColour : Obligations.HslCommandsBuildThePiecewiseColour := by
  refine ⟨issued_opcode .hsld, issued_opcode .hslf, fun s => ⟨?_, ?_⟩⟩
  · rw [exec_hsld, setRes_of_toNat (hsl2rgb_toNat (lowByte_le _) (lowByte_le _) _)]
  · rw [exec_hslf, setRes_of_toNat (hsl2rgb_toNat (lowByte_le _) (lowByte_le _) _)]

/-- Settles O11: lane by lane (`lane_blend`), at weights of at most 256. -/
theorem lerpAndRlerpBlendEveryLane : Obligations.LerpAndRlerpBlendEveryLane :=
  ⟨issued_opcode .lerp, issued_opcode .rlerp, fun s =>
    ⟨⟨_, exec_lerp s, fun _ hl => lane_blend (fractionOf_le _) hl _ _⟩,
      ⟨_, exec_rlerp s, fun _ hl => lane_blend (Nat.sub_le _ _) hl _ _⟩⟩⟩

/-- Settles O12: lane by lane (`lane_scale`); a factor of at most 1 takes no lane above itself. -/
theorem scaleRoundsEveryLaneDown : Obligations.ScaleRoundsEveryLaneDown := by
  refine ⟨issued_opcode .scale, fun s => ⟨_, exec_scale s, fun l hl => ?_⟩⟩
  have hk := fractionOf_le s.arg2
  have hle := (mul_div_le_self hk (l s.arg0)).trans (lane_le hl s.arg0)
  exact ⟨by rw [lane_scale hk hl, Nat.min_eq_right hle], hle⟩

/-- Settles O13: the hue and the value in numbers (`rgb2hsv_h`, `rgb2hsv_v`), with the white lane above them. -/
theorem satReplacesTheSaturation : Obligations.SatReplacesTheSaturation :=
  ⟨issued_opcode .sat, fun s => by rw [exec_sat, setRes_of_toNat (saturate_toNat (lowByte_le _) _)]⟩

/-- Settles O15: the laws of `blend` and of the scaled lanes at the weight that ARG2 decodes to. -/
theorem blendAndScaleLaws : Obligations.BlendAndScaleLaws := by
  intro s
  have hk := fractionOf_le s.arg2
  have hzero (h : s.arg2.toNat % 65536 = 0x0000) : fractionOf s.arg2 = 0 := by simp [fractionOf, h]
  have hone (h : s.arg2.toNat % 65536 = 0x0100) : fractionOf s.arg2 = 256 := by simp [fractionOf, h]
  refine ⟨fun h => ?_, fun h => ?_, fun t t' ht ht' => ?_, fun t ht l hl => ?_, fun h => ?_, fun h => ?_⟩
  · rw [exec_lerp, hzero h, blend_zero, State.setRes]
  · rw [exec_lerp, hone h, blend_full, State.setRes]
  · cases (exec_lerp s).symm.trans ht
    cases (exec_rlerp _).symm.trans ht'
    exact blend_swap hk _ _
  · cases (exec_scale s).symm.trans ht
    rw [State.setRes_res, lane_scale hk hl]
    exact mul_div_le_self hk _
  · rw [exec_scale, hzero h, scale_zero, State.setRes]
  · rw [exec_scale, hone h, scale_full, State.setRes]

/-- Settles O16: the white lane of a constructed colour is 0, that of SAT the old one, and no lane exceeds the value. -/
theorem constructedColoursHaveNoWhite : Obligations.ConstructedColoursHaveNoWhite := by
  intro s t
  have hs := lowByte_le s.arg1
  have hv := lowByte_le s.arg2
  simp only [List.forall_mem_cons, List.not_mem_nil, false_imp_iff, implies_true, and_true, exec_hsvd, exec_hsvf, exec_hsld,
    exec_hslf, exec_sat, Host.Outcome.next.injEq]
  refine ⟨⟨?_, ?_, ?_, ?_⟩, ?_, ?_, ?_⟩
  all_goals rintro rfl
  · exact white_hsv2rgb hs _ _
  · exact white_hsv2rgb hs _ _
  · exact white_hsl2rgb hs hv _
  · exact white_hsl2rgb hs hv _
  · exact white_saturate _ _
  · exact fun l hl => lane_hsv2rgb_le hs hv _ hl
  · exact fun l hl => lane_hsv2rgb_le hs hv _ hl

/-- Settles O7: dropping ARG0[31:24] is a remainder. -/
theorem cpk24ZeroesWhite : Obligations.Cpk24ZeroesWhite := by
  refine ⟨issued_opcode .cpk24, fun s => ?_⟩
  have hlow : (0#8 ++ s.arg0.extractLsb' 0 24 : Word).toNat = s.arg0.toNat % 16777216 := by
    rw [toNat_append_eq_add, BitVec.extractLsb'_toNat]
    simp
  rw [exec_cpk24, setRes_of_toNat hlow]

end Sys2Proof.Spec
end

section
/-! Palette sampler (42_palette.md R190 to R197): the wrapped lookup, the parts of a Q24.8 index, and what PSETN, PGETI,
PGETF and PRAND answer. -/

namespace Sys2Proof.Machine
open Spec

/-! ### `wrap` and the wrapped lookup (R192) -/

/-- The remainder is the only number below `n` that is congruent to the index. -/
theorem wrapIndex_eq_of_dvd {i : Int} {n r : Nat} (hr : r < n) (h : (n : Int) ∣ i - r) : wrapIndex i n = r := by
  have hmod : (r : Int) % n = i % n := Int.modEq_iff_dvd.2 h
  rw [wrapIndex, ← hmod, Int.emod_eq_of_lt (Int.natCast_nonneg r) (Int.ofNat_lt.2 hr), Int.toNat_natCast]

theorem wrapIndex_add_self (i : Int) (n : Nat) : wrapIndex (i + n) n = wrapIndex i n := by
  rw [wrapIndex, Int.add_emod_right, wrapIndex]

theorem State.paletteAt_eq_of_dvd {s : State} {i : Int} {r : Nat} (hr : r < s.paln.toNat)
    (h : (s.paln.toNat : Int) ∣ i - r) : s.paletteAt i = s.pal r := by
  rw [State.paletteAt, wrapIndex_eq_of_dvd hr h]

theorem State.paletteAt_add_paln (s : State) (i : Int) : s.paletteAt (i + s.paln.toNat) = s.paletteAt i := by
  rw [State.paletteAt, wrapIndex_add_self, State.paletteAt]

/-- The lookup reads the palette and its count, not the operand. -/
theorem State.paletteAt_add_paln_withArg0 (s : State) (x : Word) (i : Int) :
    State.paletteAt { s with arg0 := x } (i + s.paln.toNat) = s.paletteAt i :=
  s.paletteAt_add_paln i

/-! ### The parts of a Q24.8 index (R194) -/

theorem indexFrac_lt (w : Word) : indexFrac w < 256 := (low8 w).isLt

/-- The low byte is the remainder of the signed value too, since 256 divides 2^32. -/
theorem toInt_eq_index (w : Word) : w.toInt = 256 * indexInt w + indexFrac w := by
  rw [indexInt, indexFrac, low8, BitVec.extractLsb'_toNat, BitVec.toInt_eq_toNat_cond]
  split <;> omega

/-- An index has no other integer part and fraction. -/
theorem index_unique {w : Word} {ip : Int} {fr : Nat} (h : w.toInt = 256 * ip + fr) (hfr : fr < 256) :
    indexInt w = ip ∧ indexFrac w = fr := by
  have hw := toInt_eq_index w
  have hlt := indexFrac_lt w
  omega

/-! ### The sampler commands' answers (R190, R191, R193, R195, R196) -/

theorem exec_psetn_of_legal {s : State} (h1 : 1 ≤ s.arg0.toNat) (hc : s.arg0.toNat ≤ s.params.palCap) :
    exec .psetn s = .next { s with paln := s.arg0 } :=
  congrArg Host.Outcome.next (if_neg (by omega))

theorem exec_psetn_of_illegal {s : State} (h : s.arg0.toNat = 0 ∨ s.params.palCap < s.arg0.toNat) :
    exec .psetn s = .next (s.raise .invalidPalette 0x20#8) :=
  congrArg Host.Outcome.next (if_pos h)

/-- Every sampling command checks first that there is a palette (R190). -/
theorem exec_of_empty_palette {i : Instr} (hi : i ∈ [Instr.pgeti, .pgetf, .prand]) {s : State} (h : s.paln.toNat = 0) :
    exec i s = .next (s.raise .invalidPalette (opcode i)) := by
  simp only [List.mem_cons, List.not_mem_nil, or_false] at hi
  obtain rfl | rfl | rfl := hi
  all_goals exact congrArg Host.Outcome.next (if_pos h)

section
variable {s : State} (hp : 1 ≤ s.paln.toNat)
include hp

theorem State.withPalette_of_pos (opc : Byte) (k : State) : s.withPalette opc k = k := if_neg (by omega)

theorem exec_pgeti_of_pos : exec .pgeti s = .next (s.setRes (s.paletteAt s.arg0.toInt)) := by
  rw [exec, execPgeti, State.withPalette_of_pos hp, signedIndex]

theorem exec_pgetf_of_index {ip : Int} {fr : Nat} (h : s.arg0.toInt = 256 * ip + fr) (hfr : fr < 256) :
    exec .pgetf s = .next (s.setRes (blend (s.paletteAt ip) (s.paletteAt (ip + 1)) fr)) := by
  obtain ⟨hip, hif⟩ := index_unique h hfr
  rw [exec, execPgetf, State.withPalette_of_pos hp, hip, hif]

theorem exec_prand_of_pos : exec .prand s = .next { s with res := s.pal s.drawIndex, draws := s.draws + 1 } := by
  rw [exec, execPrand, State.withPalette_of_pos hp, State.setRes]

theorem State.drawIndex_lt : s.drawIndex < s.paln.toNat := Nat.mod_lt _ hp

end

end Sys2Proof.Machine

namespace Sys2Proof.Spec
open Sys2Proof.Machine

/-- Settles O19: the remainder is the one index below PALN in its class (`wrapIndex_eq_of_dvd`). -/
theorem pgetiWrapsTheIndex : Obligations.PgetiWrapsTheIndex := by
  refine ⟨issued_opcode .pgeti, fun s => ⟨exec_of_empty_palette (by decide), fun r hr hd => ?_⟩⟩
  rw [exec_pgeti_of_pos (Nat.one_le_of_lt hr), State.paletteAt_eq_of_dvd hr hd, State.setRes]

/-- Settles O20: the two parts of the index are unique (`index_unique`), as are both wrapped indexes; the lanes are those of
`blend`. -/
theorem pgetfBlendsNeighbours : Obligations.PgetfBlendsNeighbours := by
  refine ⟨issued_opcode .pgetf, fun s => ⟨exec_of_empty_palette (by decide), ?_⟩⟩
  intro ip fr ra rb h hfr hra hrb hda hdb
  refine ⟨_, exec_pgetf_of_index (Nat.one_le_of_lt hra) h hfr, fun l hl => ?_⟩
  rw [State.paletteAt_eq_of_dvd hra hda, State.paletteAt_eq_of_dvd hrb hdb, lane_blend hfr.le hl]

/-- Settles O22: PALN is a period of the wrapped lookup (`State.paletteAt_add_paln`), and 256 * PALN more in a Q24.8 index is
PALN more in its integer part, with the same fraction. -/
theorem paletteLookupIsPeriodic : Obligations.PaletteLookupIsPeriodic := by
  intro s t t' x hp
  refine ⟨fun hx ht ht' => ?_, fun hx ht ht' => ?_⟩
  · cases (exec_pgeti_of_pos hp).symm.trans ht
    cases (exec_pgeti_of_pos (s := { s with arg0 := x }) hp).symm.trans ht'
    rw [State.setRes_res, State.setRes_res, hx, State.paletteAt_add_paln_withArg0]
  · have hs := toInt_eq_index s.arg0
    have hx' : x.toInt = 256 * (indexInt s.arg0 + s.paln.toNat) + indexFrac s.arg0 := by omega
    have hlt := indexFrac_lt s.arg0
    cases (exec_pgetf_of_index hp hs hlt).symm.trans ht
    cases (exec_pgetf_of_index (s := { s with arg0 := x }) hp hx' hlt).symm.trans ht'
    rw [State.setRes_res, State.setRes_res, add_right_comm, State.paletteAt_add_paln_withArg0,
      State.paletteAt_add_paln_withArg0]

/-- Settles O18: the two conditions are the check of PSETN and its negation. -/
theorem psetnSetsALegalCount : Obligations.PsetnSetsALegalCount :=
  ⟨issued_opcode .psetn, fun _ => ⟨exec_psetn_of_legal, exec_psetn_of_illegal⟩⟩

/-- Settles O21: the entry is that of the drawn index, which is below PALN. -/
theorem prandPicksAnActiveEntry : Obligations.PrandPicksAnActiveEntry :=
  ⟨issued_opcode .prand, fun _ => ⟨exec_of_empty_palette (by decide), fun hp =>
    ⟨_, State.drawIndex_lt hp, exec_prand_of_pos hp⟩⟩⟩

end Sys2Proof.Spec
end

section
/-! Frame layout (43_encoder.md R223, R230 to R236): the configuration word in numbers, the frame's bytes and bits by pixel and
position, XBUF by its three parts, and the SPI stream as one group `1, b, 0` per frame bit. -/

namespace Sys2Proof.Machine
open Spec

/-! ### Lists made of pieces of one length -/

section
variable {α β : Type} {f : α → List β} {k : Nat} (hf : ∀ a, (f a).length = k)
include hf

theorem length_flatMap_const (l : List α) : (l.flatMap f).length = l.length * k := by
  induction l with
  | nil => simp
  | cons a l ih => rw [List.flatMap_cons, List.length_append, hf, ih, List.length_cons, Nat.succ_mul, Nat.add_comm]

/-- Entry `j` of piece `i`. -/
theorem getD_flatMap_const (l : List α) (a : α) (b : β) {i j : Nat} (hi : i < l.length) (hj : j < k) :
    (l.flatMap f).getD (k * i + j) b = (f (l.getD i a)).getD j b := by
  induction l generalizing i with
  | nil => simp at hi
  | cons x l ih =>
    rw [List.flatMap_cons]
    cases i with
    | zero => rw [List.getD_append _ _ _ _ (by rw [hf]; omega)]; simp
    | succ i =>
      have hskip : k * (i + 1) + j - k = k * i + j := by rw [Nat.mul_succ]; omega
      rw [List.getD_append_right _ _ _ _ (by rw [hf, Nat.mul_succ]; omega), hf, hskip, ih (by simpa using hi)]
      rfl

end

/-! ### The configuration word in numbers (R112, R113) -/

theorem cfgProto_toNat (w : Word) : (cfgProto w).toNat = w.toNat % 4 := by
  simp [cfgProto, BitVec.extractLsb'_toNat]

theorem cfgProto_eq_one_iff (w : Word) : cfgProto w = 1#2 ↔ isP32 w = true := by
  rw [← BitVec.toNat_inj, cfgProto_toNat, isP32, decide_eq_true_eq]; rfl

theorem isSpi_eq (w : Word) : isSpi w = decide (w.toNat / 4 % 4 = 1) := by
  simp only [isSpi, ← BitVec.toNat_inj, cfgStrat_toNat]; rfl

theorem timingOf_cfgProto (p : Params) (w : Word) : timingOf p (cfgProto w) = timing p (isP32 w) := by
  simp only [timingOf, timing, cfgProto_eq_one_iff]

theorem Snap.timing_eq (n : Snap) (p : Params) : n.timing p = Spec.timing p (isP32 n.config) := timingOf_cfgProto ..

theorem channels_cfgProto {w : Word} (h : w.toNat % 4 ≤ 1) : channels (cfgProto w) = chan (isP32 w) := by
  have hcases : w.toNat % 4 = 0 ∨ w.toNat % 4 = 1 := by omega
  rw [channels, cfgProto_toNat, isP32, chan]
  rcases hcases with h0 | h1
  · simp [h0]
  · simp [h1]

theorem orderB_eq (o : Byte) : orderB o = oB o := by
  simp [orderB, oB, BitVec.extractLsb'_toNat]

theorem orderG_eq (o : Byte) : orderG o = oG o := by
  simp [orderG, oG, BitVec.extractLsb'_toNat, Nat.shiftRight_eq_div_pow]

theorem orderR_eq (o : Byte) : orderR o = oR o := by
  simp [orderR, oR, BitVec.extractLsb'_toNat, Nat.shiftRight_eq_div_pow]

theorem orderW_eq (o : Byte) : orderW o = oW o := by
  have := o.isLt
  simp only [orderW, oW, BitVec.extractLsb'_toNat, Nat.shiftRight_eq_div_pow]
  omega

/-! ### The frame's bytes and bits (R231 to R233) -/

/-- A valid descriptor gives the channels' positions as an arrangement of the slots (R213). -/
theorem channelsOf_positions {o : Byte} {p32 : Bool} (h : OrderOk o p32) :
    ((channelsOf o p32).map Prod.snd).Perm (List.range (chan p32)) := by
  cases p32
  · exact h
  · exact h

/-- A channel stands in the slot of its position: no channel read before it has the same one (R113, R231). -/
theorem slot_of_mem_channelsOf {w : Word} (hord : OrderOk (cfgOrder w) (isP32 w)) {ch : (Word → Nat) × Nat}
    (hch : ch ∈ channelsOf (cfgOrder w) (isP32 w)) (c : Word) :
    ch.2 < chan (isP32 w) ∧ (slot w c ch.2).toNat = ch.1 c := by
  have hperm := channelsOf_positions hord
  have hne := hperm.nodup_iff.2 List.nodup_range
  refine ⟨List.mem_range.1 (hperm.mem_iff.1 (List.mem_map_of_mem hch)), ?_⟩
  simp only [slot, orderR_eq, orderG_eq, orderB_eq, orderW_eq, cfgProto_eq_one_iff]
  cases hp : isP32 w with
  | false =>
    simp only [hp, channelsOf, Bool.false_eq_true, if_false, List.map_cons, List.map_nil, List.nodup_cons, List.mem_cons,
      List.not_mem_nil, or_false, not_or] at hne hch
    obtain ⟨⟨hRG, hRB⟩, hGB, -⟩ := hne
    rcases hch with rfl | rfl | rfl
    · simp [laneR_toNat]
    · simp [hRG, laneG_toNat]
    · simp [hRB, hGB, laneB_toNat]
  | true =>
    simp only [hp, channelsOf, if_true, List.map_cons, List.map_nil, List.nodup_cons, List.mem_cons,
      List.not_mem_nil, or_false, not_or] at hne hch
    obtain ⟨⟨hRG, hRB, hRW⟩, ⟨hGB, hGW⟩, hBW, -⟩ := hne
    rcases hch with rfl | rfl | rfl | rfl
    · simp [laneR_toNat]
    · simp [hRG, laneG_toNat]
    · simp [hRB, hGB, laneB_toNat]
    · simp [hRW, hGW, hBW, laneW_toNat]

theorem length_pixelBytes (w c : Word) : (pixelBytes w c).length = channels (cfgProto w) := by simp [pixelBytes]

theorem length_frameBytes (n : Snap) : (frameBytes n).length = n.pixels.length * channels (cfgProto n.config) :=
  length_flatMap_const (length_pixelBytes n.config) _

/-- Slot `j` of pixel `q` among the frame's bytes (R232). -/
theorem frameBytes_getD {n : Snap} {q j : Nat} (hq : q < n.pixels.length) (hj : j < channels (cfgProto n.config)) :
    (frameBytes n).getD (channels (cfgProto n.config) * q + j) 0#8 = slot n.config (n.pixels.getD q 0#32) j := by
  rw [frameBytes, getD_flatMap_const (length_pixelBytes n.config) _ 0#32 0#8 hq hj, pixelBytes]
  simp [List.getD, hj]

theorem streamBit_byte (bs : List Byte) (i : Nat) {b : Nat} (hb : b < 8) :
    streamBit bs (8 * i + b) = (bs.getD i 0#8).getLsbD (7 - b) := by
  have hdiv : (8 * i + b) / 8 = i := by omega
  have hmod : (8 * i + b) % 8 = b := by omega
  rw [streamBit, hdiv, hmod]

/-! ### XBUF by its three parts (R235) -/

theorem length_enc3Bytes (b : Byte) : (enc3Bytes b).length = 3 := rfl

theorem xbufOf_eq (p : Params) (n : Snap) : xbufOf p n =
    List.replicate (n.timing p).padb 0#8 ++ (frameBytes n).flatMap enc3Bytes ++ List.replicate (n.timing p).padb 0#8 := rfl

theorem length_xbufOf (p : Params) (n : Snap) :
    (xbufOf p n).length = (frameBytes n).length * 3 + 2 * (n.timing p).padb := by
  simp only [xbufOf_eq, List.length_append, List.length_replicate, length_flatMap_const length_enc3Bytes]
  omega

/-- XBUF's length is XLEN (R214). -/
theorem length_xbufOf_eq_spiLength {n : Snap} (h : n.pixels.length = n.npix.toNat) (p : Params) :
    (xbufOf p n).length = spiLength p (cfgProto n.config) n.npix.toNat := by
  rw [length_xbufOf, length_frameBytes, h]; rfl

theorem xbufOf_getD_leading {p : Params} {n : Snap} {a : Nat} (ha : a < (n.timing p).padb) (d : Byte) :
    (xbufOf p n).getD a d = 0#8 := by
  rw [xbufOf_eq, List.append_assoc, List.getD_append _ _ _ _ (by simpa using ha), List.getD_replicate _ ha]

theorem xbufOf_getD_trailing {p : Params} {n : Snap} {a : Nat} (h : (xbufOf p n).length ≤ a + (n.timing p).padb)
    (hlt : a < (xbufOf p n).length) (d : Byte) : (xbufOf p n).getD a d = 0#8 := by
  have hlen := length_xbufOf p n
  have hparts : (List.replicate (n.timing p).padb 0#8 ++ (frameBytes n).flatMap enc3Bytes).length =
      (n.timing p).padb + (frameBytes n).length * 3 := by
    simp [length_flatMap_const length_enc3Bytes]
  rw [xbufOf_eq, List.getD_append_right _ _ _ _ (by rw [hparts]; omega),
    List.getD_replicate _ (by rw [hparts]; omega)]

/-- The three bytes of frame byte `i` (R235). -/
theorem xbufOf_getD_data {p : Params} {n : Snap} {i j : Nat} (hi : i < (frameBytes n).length) (hj : j < 3) :
    (xbufOf p n).getD ((n.timing p).padb + (3 * i + j)) 0#8 =
      (enc3Bytes ((frameBytes n).getD i 0#8)).getD j 0#8 := by
  have hskip : (n.timing p).padb + (3 * i + j) - (n.timing p).padb = 3 * i + j := by omega
  rw [xbufOf_eq, List.append_assoc, List.getD_append_right _ _ _ _ (by simp), List.length_replicate, hskip,
    List.getD_append _ _ _ _ (by rw [length_flatMap_const length_enc3Bytes]; omega),
    getD_flatMap_const length_enc3Bytes _ 0#8 0#8 hi hj]

/-- Every bit of the leading padding is 0. -/
theorem streamBit_xbufOf_leading {p : Params} {n : Snap} {j : Nat} (hj : j < 8 * (n.timing p).padb) :
    streamBit (xbufOf p n) j = false := by
  rw [streamBit, xbufOf_getD_leading (by omega)]; simp

/-- Every bit of the trailing padding is 0. -/
theorem streamBit_xbufOf_trailing {p : Params} {n : Snap} {j : Nat}
    (h : 8 * ((xbufOf p n).length - (n.timing p).padb) ≤ j) (hj : j < 8 * (xbufOf p n).length) :
    streamBit (xbufOf p n) j = false := by
  rw [streamBit, xbufOf_getD_trailing (by omega) (by omega)]; simp

/-! ### The bits of an expansion (R223) -/

/-- Bits 3i+2, 3i+1 and 3i of the expansion. -/
theorem enc3_group (b : Byte) : ∀ i < 8, (enc3 b).getLsbD (3 * i + 2) = true ∧
    (enc3 b).getLsbD (3 * i + 1) = b.getLsbD i ∧ (enc3 b).getLsbD (3 * i) = false := by
  intro i hi
  simp only [enc3, enc3Group, BitVec.getLsbD_append, BitVec.getLsbD_ofBool]
  interval_cases i <;> simp

end Sys2Proof.Machine

namespace Sys2Proof.Spec
open Sys2Proof.Machine

/-- Settles O33: the frame's bytes are pixels of C slots, and each channel stands in the slot of its position. -/
theorem frameBitsFollowPixelSlotAndBitOrder : Obligations.FrameBitsFollowPixelSlotAndBitOrder := by
  intro n hlen hproto hord
  rw [frameBits, channels_cfgProto hproto]
  refine ⟨rfl, fun p hp ch hch b hb => ?_⟩
  obtain ⟨hlt, hslot⟩ := slot_of_mem_channelsOf hord hch (n.pixels.getD p 0#32)
  rw [← channels_cfgProto hproto] at hlt ⊢
  rw [frameBit, streamBit_byte _ _ hb, Nat.mul_comm p, frameBytes_getD (by omega) hlt, ← hslot]
  rfl

/-- Settles O34: XBUF's three parts, with each channel's frame byte at its place. -/
theorem xbufLayout : Obligations.XbufLayout := by
  intro p n hlen hproto hord
  have hbytes : (frameBytes n).length = n.npix.toNat * chan (isP32 n.config) := by
    rw [length_frameBytes, hlen, channels_cfgProto hproto]
  have hxlen := length_xbufOf p n
  rw [hbytes] at hxlen
  simp only [← Snap.timing_eq]
  refine ⟨hxlen, fun a ha => xbufOf_getD_leading ha _, fun q hq ch hch => ?_,
    fun a hlo hhi => xbufOf_getD_trailing (by omega) (by omega) _⟩
  obtain ⟨hlt, hslot⟩ := slot_of_mem_channelsOf hord hch (n.pixels.getD q 0#32)
  have hin : q * chan (isP32 n.config) + ch.2 < (frameBytes n).length := by
    have := Nat.mul_le_mul_right (chan (isP32 n.config)) (Nat.succ_le_of_lt hq)
    rw [Nat.succ_mul] at this
    omega
  have hbyte : (frameBytes n).getD (q * chan (isP32 n.config) + ch.2) 0#8 =
      BitVec.ofNat 8 (ch.1 (n.pixels.getD q 0#32)) := by
    rw [← channels_cfgProto hproto] at hlt ⊢
    rw [Nat.mul_comm q, frameBytes_getD (by omega) hlt, ← hslot, BitVec.ofNat_toNat, BitVec.setWidth_eq]
  have hdata : ∀ j < 3, (xbufOf p n).getD ((n.timing p).padb + (3 * (q * chan (isP32 n.config) + ch.2) + j)) 0#8 =
      (enc3Bytes (BitVec.ofNat 8 (ch.1 (n.pixels.getD q 0#32)))).getD j 0#8 := fun j hj => by
    rw [xbufOf_getD_data hin hj, hbyte]
  exact ⟨hdata 0 (by decide), hdata 1 (by decide), hdata 2 (by decide)⟩

end Sys2Proof.Spec
end

section
/-! Encoder commands (43_encoder.md R211 to R223): CFG's checks in numbers, and what CFG, SHOW, FILL, PFILL, PIXR and ENC3
answer. -/

namespace Sys2Proof.Machine
open Spec

/-! ### CFG's checks in numbers (R211 to R214) -/

/-- An arrangement of the first `n` numbers is a list of `n` entries that holds each of them once. -/
theorem perm_range_iff_count {l : List Nat} {n : Nat} (hl : l.length = n) :
    l.Perm (List.range n) ↔ ∀ j < n, l.count j = 1 := by
  constructor
  · intro h j hj
    rw [h.count_eq, List.count_eq_one_of_mem List.nodup_range (List.mem_range.2 hj)]
  · intro h
    have hsub : List.range n ⊆ l := fun j hj => List.count_pos_iff.1 (by rw [h j (List.mem_range.1 hj)]; decide)
    exact ((List.subperm_of_subset List.nodup_range hsub).perm_of_length_le (by simp [hl])).symm

theorem orderPositions_eq (w : Word) :
    orderPositions (cfgOrder w) (cfgProto w) = (channelsOf (cfgOrder w) (isP32 w)).map Prod.snd := by
  simp only [orderPositions, cfgProto_eq_one_iff, orderR_eq, orderG_eq, orderB_eq, orderW_eq]
  cases isP32 w <;> rfl

/-- `order_ok` asks for an arrangement of the slots (R213). -/
theorem orderOk_eq {w : Word} (hproto : w.toNat % 4 ≤ 1) :
    orderOk (cfgOrder w) (cfgProto w) = decide (OrderOk (cfgOrder w) (isP32 w)) := by
  have hlen : ((channelsOf (cfgOrder w) (isP32 w)).map Prod.snd).length = chan (isP32 w) := by
    cases isP32 w <;> rfl
  have hperm : OrderOk (cfgOrder w) (isP32 w) ↔
      ((channelsOf (cfgOrder w) (isP32 w)).map Prod.snd).Perm (List.range (chan (isP32 w))) := by
    cases isP32 w <;> rfl
  rw [Bool.eq_iff_iff, decide_eq_true_iff, hperm, perm_range_iff_count hlen, orderOk, orderPositions_eq,
    channels_cfgProto hproto]
  simp

theorem supported_eq {w : Word} (hstrat : w.toNat / 4 % 4 ≤ 1) (hproto : w.toNat % 4 ≤ 1) (p : Params) :
    supported p (cfgStrat w) (cfgProto w) =
      if w.toNat / 4 % 4 = 0 then (if w.toNat % 4 = 0 then p.supGpioP24 else p.supGpioP32)
      else (if w.toNat % 4 = 0 then p.supSpiP24 else p.supSpiP32) := by
  have hs : w.toNat / 4 % 4 = 0 ∨ w.toNat / 4 % 4 = 1 := by omega
  have hp : w.toNat % 4 = 0 ∨ w.toNat % 4 = 1 := by omega
  simp only [supported, ← BitVec.toNat_inj, cfgStrat_toNat, cfgProto_toNat]
  rcases hs with hs | hs <;> rcases hp with hp | hp <;> simp [hs, hp]

theorem spiLength_eq {w : Word} (hproto : w.toNat % 4 ≤ 1) (p : Params) (n : Nat) :
    spiLength p (cfgProto w) n = n * chan (isP32 w) * 3 + 2 * (Spec.timing p (isP32 w)).padb := by
  rw [spiLength, channels_cfgProto hproto, timingOf_cfgProto]

/-- One check in front of two chains of checks that agree where it passes (R212). -/
theorem ite_eq_firstError {c : Prop} [Decidable c] {b : Bool} {e : ErrCode} {x : Option ErrCode}
    {rest : List (Bool × ErrCode)} (hc : c ↔ b = true) (hrest : b = false → x = firstError rest) :
    (if c then some e else x) = firstError ((b, e) :: rest) := by
  cases b with
  | true => rw [if_pos (hc.2 rfl)]; rfl
  | false => rw [if_neg (by simp [hc]), hrest rfl]; rfl

/-- CFG's checks are the six of R211 in their order. -/
theorem cfgCheck_eq (p : Params) (w n : Word) : cfgCheck p w n = cfgErrors p w n.toNat := by
  have hzero : cfgStrat w = 0#2 ↔ w.toNat / 4 % 4 = 0 := by rw [← BitVec.toNat_inj, cfgStrat_toNat]; rfl
  have hone : cfgStrat w = 1#2 ↔ w.toNat / 4 % 4 = 1 := by rw [← BitVec.toNat_inj, cfgStrat_toNat]; rfl
  refine ite_eq_firstError (by simp [cfgStrat_toNat]) fun hstrat => ?_
  have hstrat : w.toNat / 4 % 4 ≤ 1 := by simpa using hstrat
  refine ite_eq_firstError (by simp [hzero, hone]) fun _ => ?_
  refine ite_eq_firstError ?_ fun hproto => ?_
  · by_cases hproto : w.toNat % 4 ≤ 1
    · rw [supported_eq hstrat hproto, cfgProto_toNat]
      simp
    · simp [cfgProto_toNat, Nat.lt_of_not_le hproto]
  have hproto : w.toNat % 4 ≤ 1 := by
    simp only [Bool.or_eq_false_iff, decide_eq_false_iff_not] at hproto
    omega
  refine ite_eq_firstError (by rw [orderOk_eq hproto, Bool.not_eq_true']; rfl) fun _ => ?_
  refine ite_eq_firstError (by simp) fun _ => ?_
  exact ite_eq_firstError (by simp [hone, spiLength_eq hproto]) fun _ => rfl

/-- A configuration that passes the checks has one of the two protocols. -/
theorem proto_le_of_cfgCheck {p : Params} {w n : Word} (h : cfgCheck p w n = none) : w.toNat % 4 ≤ 1 := by
  unfold cfgCheck at h
  split_ifs at h with _ _ hproto
  rw [cfgProto_toNat] at hproto
  omega

/-- The accepted configuration as a number (R211, R112). -/
theorem cfgAccepted_eq (w : Word) : cfgAccepted w = BitVec.ofNat 32 (acceptedConfig w) := by
  have hasync : (cfgAsync w).toNat = w.toNat / 16 % 2 := Nat.toNat_testBit w.toNat 4
  have horder : (cfgOrder w).toNat = w.toNat / 256 % 256 := by
    simp [cfgOrder, BitVec.extractLsb'_toNat, Nat.shiftRight_eq_div_pow]
  apply BitVec.eq_of_toNat_eq
  simp only [cfgAccepted, acceptedConfig, toNat_append_eq_add, BitVec.toNat_ofBool, BitVec.toNat_ofNat, cfgStrat_toNat,
    cfgProto_toNat, hasync, horder]
  omega

/-! ### What the commands answer (R216 to R221) -/

/-- FILL, PFILL and PIXR check first that the block is configured, as SHOW does (R216). -/
theorem exec_of_not_configured {i : Instr} (hi : i ∈ [Instr.fill, .pfill, .pixr]) {s : State} (h : s.cfgst ≠ .configured) :
    exec i s = .next (s.raise .notConfigured (opcode i)) := by
  simp only [List.mem_cons, List.not_mem_nil, or_false] at hi
  obtain rfl | rfl | rfl := hi
  all_goals exact congrArg Host.Outcome.next (if_neg h)

theorem State.withConfigured_of_configured {s : State} (h : s.cfgst = .configured) (opc : Byte) (k : State) :
    s.withConfigured opc k = k := if_pos h

theorem exec_fill_of_configured {s : State} (h : s.cfgst = .configured) :
    exec .fill s = .next (State.fillPixels (fun _ => s.arg0) s.npix.toNat s) := by
  rw [exec, execFill, State.withConfigured_of_configured h]

theorem exec_pfill_of_empty_palette {s : State} (h : s.cfgst = .configured) (hp : s.paln.toNat = 0) :
    exec .pfill s = .next (s.raise .invalidPalette 0x33#8) := by
  rw [exec, execPfill, State.withConfigured_of_configured h, if_pos hp]

theorem exec_pfill_of_pos {s : State} (h : s.cfgst = .configured) (hp : 1 ≤ s.paln.toNat) :
    exec .pfill s = .next (State.fillPixels (fun i => s.pal (i % s.paln.toNat)) s.npix.toNat s) := by
  rw [exec, execPfill, State.withConfigured_of_configured h, if_neg (by omega)]

theorem exec_pixr_of_configured {s : State} (h : s.cfgst = .configured) :
    exec .pixr s = .next (s.setRes (s.pix (wrapIndex s.arg0.toInt s.npix.toNat))) := by
  rw [exec, execPixr, State.withConfigured_of_configured h, signedIndex]

/-- Filling pixels changes memory alone. -/
theorem State.fillPixels_restore_mem (f : Nat → Word) (n : Nat) (s : State) :
    { State.fillPixels f n s with mem := s.mem } = s := by
  induction n with
  | zero => rfl
  | succ n ih => exact ih

theorem State.takeSnap_pixels (s : State) : s.takeSnap.pixels.length = s.npix.toNat ∧
    ∀ i < s.npix.toNat, s.takeSnap.pixels.getD i 0#32 = s.pix i := by
  refine ⟨by simp [State.takeSnap], fun i hi => ?_⟩
  simp [State.takeSnap, List.getD, hi]

/-! ### ENC3 (R222, R223) -/

/-- Bits 31:24 of ENC3's result are 0. -/
theorem getLsbD_zero_append_enc3 (b : Byte) (j : Nat) : (0#8 ++ enc3 b : Word).getLsbD j = (enc3 b).getLsbD j := by
  rw [BitVec.getLsbD_append]
  split
  · rfl
  · next h => rw [BitVec.getLsbD_zero, BitVec.getLsbD_of_ge _ _ (by omega)]

/-- In groups `1, b, 0` one bit more per group is set than there are set bits `b`. -/
theorem countP_groups {f g : Nat → Bool} {n : Nat}
    (h : ∀ i < n, f (3 * i + 2) = true ∧ f (3 * i + 1) = g i ∧ f (3 * i) = false) :
    (List.range (3 * n)).countP f = n + (List.range n).countP g := by
  induction n with
  | zero => rfl
  | succ n ih =>
    obtain ⟨h2, h1, h0⟩ := h n (Nat.lt_succ_self n)
    rw [Nat.mul_succ, List.range_succ, List.range_succ, List.range_succ, List.range_succ]
    simp only [List.countP_append, List.countP_singleton, h2, h1, h0, ih fun i hi => h i (Nat.lt_succ_of_lt hi)]
    simp only [if_true, Bool.false_eq_true, if_false]
    omega

/-- The expansion has 8 set bits more than the byte (R223). -/
theorem countP_enc3 (b : Byte) :
    (List.range 32).countP (fun j => (enc3 b).getLsbD j) = 8 + (List.range 8).countP (fun i => b.getLsbD i) := by
  have hsplit : List.range 32 = List.range (3 * 8) ++ (List.range 8).map (24 + ·) := by decide
  have hhigh : ((List.range 8).map (24 + ·)).countP (fun j => (enc3 b).getLsbD j) = 0 := by
    rw [List.countP_eq_zero]
    intro j hj
    obtain ⟨k, -, rfl⟩ := List.mem_map.1 hj
    simp
  rw [hsplit, List.countP_append, hhigh, countP_groups (enc3_group b), Nat.add_zero]

end Sys2Proof.Machine

namespace Sys2Proof.Spec
open Sys2Proof.Machine

/-- Settles O23: the checks in numbers (`cfgCheck_eq`), and the accepted configuration and XLEN in numbers. -/
theorem cfgChecksInOrderThenConfigures : Obligations.CfgChecksInOrderThenConfigures := by
  refine ⟨issued_opcode .cfg, fun s => ⟨exec_cfg_of_tx, fun e hi he => ?_, fun hi hnone => ?_⟩⟩
  · rw [← cfgCheck_eq] at he
    exact exec_cfg_of_error (State.cfgReady_eq_true.2 hi) he
  · rw [← cfgCheck_eq] at hnone
    rw [exec_cfg_of_pass (State.cfgReady_eq_true.2 hi) hnone, State.configure, cfgAccepted_eq,
      spiLength_eq (proto_le_of_cfgCheck hnone)]
    simp only [← BitVec.toNat_inj, cfgStrat_toNat]
    rfl

/-- Settles O24: SHOW's three answers; the accepted one is `State.acceptShow`, with its draw as the idle length. -/
theorem showIsRefusedHeldOrAccepted : Obligations.ShowIsRefusedHeldOrAccepted := by
  refine ⟨issued_opcode .showFrame, fun s => ⟨exec_show_of_not_configured, fun hc hr => ?_, fun hc hi hr => ?_⟩⟩
  · rw [← State.showReady_eq_true] at hr
    rw [exec_show_of_configured hc, if_neg hr]
  · obtain ⟨hlen, hpix⟩ := s.takeSnap_pixels
    refine ⟨Config.draw s.draws, s.takeSnap, rfl, rfl, hlen, hpix, ?_⟩
    rw [exec_show_of_configured hc, if_pos (State.showReady_eq_true.2 ⟨hi, hr⟩)]
    rfl

/-- Settles O26: the rules of `State.fillPixels`. -/
theorem fillSetsEveryActivePixel : Obligations.FillSetsEveryActivePixel := by
  refine ⟨issued_opcode .fill, fun s => ⟨exec_of_not_configured (by decide), fun hc => ?_⟩⟩
  refine ⟨_, exec_fill_of_configured hc, fun i hi => ?_, fun a => State.ramByte_fillPixels _ _ a s,
    State.fillPixels_restore_mem ..⟩
  rw [State.pix_fillPixels, if_pos hi]

/-- Settles O27: the rules of `State.fillPixels`, the palette being that of the state before. -/
theorem pfillRepeatsThePalette : Obligations.PfillRepeatsThePalette := by
  refine ⟨issued_opcode .pfill, fun s => ⟨exec_of_not_configured (by decide), exec_pfill_of_empty_palette, fun hc hp => ?_⟩⟩
  refine ⟨_, exec_pfill_of_pos hc hp, fun i hi => ?_, fun a => State.ramByte_fillPixels _ _ a s,
    State.fillPixels_restore_mem ..⟩
  rw [State.pix_fillPixels, if_pos hi]

/-- Settles O28: the remainder is the one index below NPIX in its class (`wrapIndex_eq_of_dvd`). -/
theorem pixrReadsPixelRamWrapping : Obligations.PixrReadsPixelRamWrapping := by
  refine ⟨issued_opcode .pixr, fun s => ⟨exec_of_not_configured (by decide), fun hc r hr hd => ?_⟩⟩
  rw [exec_pixr_of_configured hc, wrapIndex_eq_of_dvd hr hd, State.setRes]

/-- Settles O29: the result is the expansion under eight 0 bits; its groups by `enc3_group`, their sum by `countP_enc3`. -/
theorem enc3ExpandsEveryBit : Obligations.Enc3ExpandsEveryBit := by
  refine ⟨issued_opcode .enc3, fun s => ⟨0#8 ++ enc3 (low8 s.arg0), rfl, ?_, ?_⟩⟩
  · have := (enc3 (low8 s.arg0)).isLt
    rw [toNat_append_eq_add]
    simpa using this
  · have hbit : ∀ i < 8, (low8 s.arg0).getLsbD i = s.arg0.getLsbD i := fun i hi => by simp [low8, hi]
    have hcount : (List.range 8).countP (fun i => (low8 s.arg0).getLsbD i) =
        (List.range 8).countP fun i => s.arg0.getLsbD i :=
      List.countP_congr fun i hi => by rw [hbit i (List.mem_range.1 hi)]
    simp only [getLsbD_zero_append_enc3, ← hcount]
    exact ⟨fun i hi => hbit i hi ▸ enc3_group _ i hi, countP_enc3 _⟩

end Sys2Proof.Spec
end

section
/-! Encoder steps (43_encoder.md R240 to R246, R250, R253): one bit of a frame, the frame's end and the gap, what the host's move
does to a frame, and which pins a step leaves low. -/

namespace Sys2Proof.Machine
open Spec

/-! ### One bit step and the end of a frame (R242 to R244) -/

theorem gpioBitWave_eq (t : Timing) (b : Bool) : gpioBitWave t b = gpioWave t b := by
  cases b <;> rfl

theorem State.frameEnd_eq (s : State) : s.frameEnd = afterFrame s (isSpi s.snap.config) := by
  have hframes : s.frames + 1#32 = BitVec.ofNat 32 (s.frames.toNat + 1) := by
    apply BitVec.eq_of_toNat_eq
    simp
  rw [State.frameEnd, afterFrame, hframes]

theorem State.seqEnd_of_gpio {s : State} (h : isGpio s.snap.config = true) : s.seqEnd = frameBits s.snap := by
  simp [State.seqEnd, isGpio_isSpi h]

theorem State.seqEnd_of_spi {s : State} (h : isSpi s.snap.config = true) : s.seqEnd = 8 * s.xlen := if_pos h

theorem State.currentWave_of_gpio {s : State} (h : isGpio s.snap.config = true) :
    s.currentWave = gpioWave (Spec.timing s.params (isP32 s.snap.config)) (frameBit s.snap s.seq) := by
  simp [State.currentWave, isGpio_isSpi h, gpioBitWave_eq, Snap.timing_eq]

theorem State.currentWave_of_spi {s : State} (h : isSpi s.snap.config = true) :
    s.currentWave = [⟨.spi, streamBit s.xbuf s.seq, (Spec.timing s.params (isP32 s.snap.config)).subbit⟩] := by
  rw [State.currentWave, if_pos h, spiBitWave, Snap.timing_eq]

/-- In TX, before the end value of SEQ, the encoder's step is a bit step (R240). -/
theorem State.encoderStep_of_tx {s : State} (htx : s.encState = .tx)
    (hstrat : isGpio s.snap.config = true ∨ isSpi s.snap.config = true) (hlt : s.seq < s.seqEnd) :
    s.encoderStep = s.bitStep := by
  refine if_pos ?_
  rcases hstrat with hg | hs
  · simp [State.gpioStepEnabled, htx, hg, ← State.seqEnd_of_gpio hg, hlt]
  · simp [State.spiStepEnabled, htx, hs, ← State.seqEnd_of_spi hs, hlt]

theorem State.encoderStep_of_gap {s : State} (hi : s.encState = .idle) (hg : s.gapOk = false) :
    s.encoderEnabled = true ∧ s.encoderStep = s.gapStep := by
  simp [State.encoderEnabled, State.encoderStep, State.gpioStepEnabled, State.spiStepEnabled, State.gapStepEnabled, hi, hg]

theorem State.encoderStep_of_gapOk {s : State} (hi : s.encState = .idle) (hg : s.gapOk = true) :
    s.encoderEnabled = false ∧ s.encoderStep = s := by
  simp [State.encoderEnabled, State.encoderStep, State.gpioStepEnabled, State.spiStepEnabled, State.gapStepEnabled, hi, hg]

/-! ### What the host's move does to a frame (R217, R218, R245) -/

/-- The frame, the encoder and the wire are as they were (R245). -/
def SameFrame (s t : State) : Prop :=
  t.snap = s.snap ∧ t.xbuf = s.xbuf ∧ t.xlen = s.xlen ∧ t.seq = s.seq ∧ t.encState = s.encState ∧ t.wire = s.wire ∧
    t.frames = s.frames ∧ t.gapOk = s.gapOk

/-- What the host's move can do to the encoder: nothing; outside TX, a CFG, which sets XLEN; or, where a SHOW is ready, the start of
a frame (R211, R217). -/
inductive FrameMove (s t : State) : Prop where
  | same (h : SameFrame s t)
  | configured (hidle : s.encState = .idle) (henc : t.encState = .idle) (hwire : t.wire = s.wire) (hgap : t.gapOk = s.gapOk)
  | started (hidle : s.encState = .idle) (hready : isSpi s.config = true ∨ s.gapOk = true) (henc : t.encState = .tx)
      (hseq : t.seq = 0) (hconfig : t.snap.config = s.config)
      (hxbuf : isSpi s.config = true → t.xbuf = xbufOf s.params t.snap)
      (ticks : Nat) (hwire : t.wire = s.wire ++ [⟨.idle, false, ticks⟩]) (hgap : t.gapOk = s.gapOk)

theorem CommandEffect.frameMove {s t : State} (h : CommandEffect s t) : FrameMove s t := by
  cases h
  case filled => exact .same (by simp [SameFrame])
  case configured hidle _ => exact .configured hidle hidle rfl rfl
  case accepted hr =>
    obtain ⟨hidle, hready⟩ := State.showReady_eq_true.1 hr
    exact .started hidle hready rfl rfl rfl (fun hs => if_pos hs) _ rfl rfl
  all_goals exact .same ⟨rfl, rfl, rfl, rfl, rfl, rfl, rfl, rfl⟩

theorem AccessEffect.frameMove {s t : State} (h : AccessEffect s t) : FrameMove s t := by
  cases h
  case command h => exact h.frameMove
  all_goals exact .same ⟨rfl, rfl, rfl, rfl, rfl, rfl, rfl, rfl⟩

/-- What the host has still to do and what it waits for play no part in a frame. -/
theorem FrameMove.of_host {s t : State} {prog : List HostOp} {held : Held}
    (h : FrameMove { s with prog := prog, held := held } t) : FrameMove s t := by
  cases h with
  | same h => exact .same h
  | configured hidle henc hwire hgap => exact .configured hidle henc hwire hgap
  | started hidle hready henc hseq hconfig hxbuf ticks hwire hgap =>
    exact .started hidle hready henc hseq hconfig hxbuf ticks hwire hgap

theorem HostEffect.frameMove {s t : State} (h : HostEffect s t) : FrameMove s t := by
  cases h
  case access rest _ _ h => exact FrameMove.of_host (prog := rest) (held := s.held) h.frameMove
  case again h => exact FrameMove.of_host (prog := s.prog) (held := .empty) h.frameMove
  all_goals exact .same ⟨rfl, rfl, rfl, rfl, rfl, rfl, rfl, rfl⟩

/-- While a frame is in TX the host's move leaves it alone (R245). -/
theorem HostEffect.sameFrame_of_tx {s t : State} (h : HostEffect s t) (htx : s.encState = .tx) : SameFrame s t := by
  cases h.frameMove with
  | same h => exact h
  | configured hidle => rw [htx] at hidle; cases hidle
  | started hidle => rw [htx] at hidle; cases hidle

/-- The host's move never raises GAP_OK (R253). -/
theorem HostEffect.gapOk {s t : State} (h : HostEffect s t) : t.gapOk = s.gapOk := by
  cases h.frameMove with
  | same h =>
    obtain ⟨-, -, -, -, -, -, -, hgap⟩ := h
    exact hgap
  | configured _ _ _ hgap => exact hgap
  | started _ _ _ _ _ _ _ _ hgap => exact hgap

/-! ### Which pins a step leaves low (R250) -/

/-- A segment that the unit drives leaves the pin low. -/
def Driver.LeavesLow (p : Pin) : Driver → Prop
  | .idle => True
  | .gpio => p ≠ .doutG
  | .spi => p = .doutG
  | .spiCut => p = .doutG

theorem Segment.onPin_of_leavesLow {p : Pin} {g : Segment} (h : g.driver.LeavesLow p) (n : Nat) :
    Segment.onPin p n g = [(false, 2 * g.ticks)] := by
  obtain ⟨d, l, k⟩ := g
  cases d with
  | idle => exact Segment.onPin_idle p n l k
  | gpio => exact Segment.onPin_gpio h n l k
  | spi => cases h; rfl
  | spiCut => cases h; rfl

theorem Driver.LeavesLow.cutShort {p : Pin} {d : Driver} (h : d.LeavesLow p) : d.cutShort.LeavesLow p := by
  cases d <;> exact h

/-- Cutting segments short drives no further pin (70_reset_and_hazards.md R324). -/
theorem cutSegments_leavesLow {p : Pin} {w : List Segment} (h : ∀ g ∈ w, g.driver.LeavesLow p) (c : Nat) :
    ∀ g ∈ cutSegments w c, g.driver.LeavesLow p := by
  induction w generalizing c with
  | nil => exact h
  | cons x w ih =>
    obtain ⟨hx, hw⟩ := List.forall_mem_cons.1 h
    rw [cutSegments]
    split
    · simpa using hx.cutShort
    · exact List.forall_mem_cons.2 ⟨hx, ih hw _⟩

/-- The pin is not in use: outside TX none is, in TX only those of the frame's strategy (R250). -/
def State.PinUnused (s : State) (p : Pin) : Prop :=
  s.encState = .idle ∨ (isGpio s.snap.config = true ∧ p ≠ .doutG) ∨ (isSpi s.snap.config = true ∧ p = .doutG)

theorem gpioWave_leavesLow {p : Pin} (hp : p ≠ .doutG) (t : Timing) (b : Bool) :
    ∀ g ∈ gpioWave t b, g.driver.LeavesLow p := by
  cases b <;> simp [gpioWave, Driver.LeavesLow, hp]

theorem State.currentWave_leavesLow {s : State} {p : Pin} (h : s.PinUnused p) (htx : s.encState = .tx) :
    ∀ g ∈ s.currentWave, g.driver.LeavesLow p := by
  rcases h with hi | ⟨hg, hp⟩ | ⟨hs, hp⟩
  · rw [htx] at hi; cases hi
  · rw [State.currentWave_of_gpio hg]; exact gpioWave_leavesLow hp _ _
  · rw [State.currentWave_of_spi hs]; simpa [Driver.LeavesLow] using hp

theorem State.resetWave_leavesLow {s : State} {p : Pin} (h : s.PinUnused p) :
    ∀ g ∈ s.resetWave, g.driver.LeavesLow p := by
  unfold State.resetWave
  split
  · next hbit =>
    have hcut := cutSegments_leavesLow (State.currentWave_leavesLow h (State.bitEnabled_lt hbit).1)
      (Config.draw s.draws % (totalTicks s.currentWave + 1))
    exact List.forall_mem_append.2 ⟨hcut, by simp [Driver.LeavesLow]⟩
  · simp

/-- What a turn appends to the wire trace drives no pin that is not in use. -/
theorem TurnEffect.wire {s t : State} (h : TurnEffect s t) :
    ∃ new, t.wire = s.wire ++ new ∧ ∀ p, s.PinUnused p → ∀ g ∈ new, g.driver.LeavesLow p := by
  have hnothing : s.wire = s.wire ++ [] := (List.append_nil _).symm
  cases h with
  | host h =>
    cases h.frameMove with
    | same h =>
      obtain ⟨-, -, -, -, -, hwire, -⟩ := h
      exact ⟨[], hwire.trans hnothing, by simp⟩
    | configured _ _ hwire => exact ⟨[], hwire.trans hnothing, by simp⟩
    | started _ _ _ _ _ _ _ hwire => exact ⟨_, hwire, by simp [Driver.LeavesLow]⟩
  | encoder h =>
    cases h with
    | bit htx => exact ⟨_, rfl, fun _ hp => State.currentWave_leavesLow hp htx⟩
    | last htx => exact ⟨_, rfl, fun _ hp => State.currentWave_leavesLow hp htx⟩
    | gap => exact ⟨_, rfl, by simp [Driver.LeavesLow]⟩
    | none => exact ⟨[], hnothing, by simp⟩
  | reset => exact ⟨_, rfl, fun _ hp => State.resetWave_leavesLow hp⟩

end Sys2Proof.Machine

namespace Sys2Proof.Spec
open Sys2Proof.Machine

/-- Settles O35: field by field, with FRAMES and the strategy in numbers. -/
theorem frameEndEffects : Obligations.FrameEndEffects := fun s => by
  rw [State.frameEnd_eq, isSpi_eq]

/-- Settles O36: the step is a bit step, whose waveform and end are GPIO's. -/
theorem gpioBitStepEmitsOneBit : Obligations.GpioBitStepEmitsOneBit := by
  intro s htx hg hlt
  rw [State.encoderStep_of_tx htx (.inl hg) (by rwa [State.seqEnd_of_gpio hg]), State.bitStep, State.currentWave_of_gpio hg,
    State.seqEnd_of_gpio hg, State.frameEnd_eq]
  simp only [isGpio_isSpi hg]

/-- Settles O37: the step is a bit step, whose waveform and end are SPI's. -/
theorem spiBitStepShiftsOneBit : Obligations.SpiBitStepShiftsOneBit := by
  intro s htx hs hlt
  rw [State.encoderStep_of_tx htx (.inr hs) (by rwa [State.seqEnd_of_spi hs]), State.bitStep, State.currentWave_of_spi hs,
    State.seqEnd_of_spi hs, State.frameEnd_eq]
  simp only [hs, streamBit]

/-- Settles O38: the encoder's step outside TX by GAP_OK; the pins by the drivers of the appended segments
(`TurnEffect.wire`). -/
theorem gapStepIsTheOnlyIdleStep : Obligations.GapStepIsTheOnlyIdleStep := by
  refine ⟨fun s hi => ⟨State.encoderStep_of_gap hi, State.encoderStep_of_gapOk hi, State.pinLevels_idle hi⟩, fun s t h => ?_⟩
  obtain ⟨-, he⟩ := step_effect h
  obtain ⟨new, hwire, hlow⟩ := he.wire
  rw [State.takeTurn_wire] at hwire
  have hpin : ∀ p, s.PinUnused p → ∀ n, ∀ x ∈ pinTraceFrom p n new, x.1 = false := fun p hp =>
    pinTraceFrom_low fun g hg => Segment.onPin_of_leavesLow (hlow p (by simpa [State.PinUnused] using hp) g hg)
  exact ⟨new, hwire, fun hi p => hpin p (.inl hi), fun _ hg p n hp => hpin p (.inr (.inl ⟨hg, hp⟩)) n,
    fun _ hs => hpin .doutG (.inr (.inr ⟨hs, rfl⟩))⟩

/-- Settles O39: of all that a step can do, only the gap step and the end of an SPI frame set GAP_OK. -/
theorem gapOkRisesOnlyByGapOrSpiFrameEnd : Obligations.GapOkRisesOnlyByGapOrSpiFrameEnd := by
  intro s t h hlow hhigh
  obtain ⟨-, he⟩ := step_effect h
  have hsame : t.gapOk ≠ s.takeTurn.gapOk := by simp [hlow, hhigh]
  cases he with
  | host h => exact absurd h.gapOk hsame
  | encoder h =>
    cases h with
    | bit => exact absurd rfl hsame
    | last htx =>
      rw [State.takeTurn_encState] at htx
      exact .inr ⟨htx, rfl, by simpa using hhigh, by simp⟩
    | gap hi => exact .inl ⟨by simpa using hi, rfl⟩
    | none => exact absurd rfl hsame
  | reset => cases hhigh

/-- Settles O43: on the host's turn the step is the host's move (`step_host`), which in TX leaves the frame alone. -/
theorem hostCannotDisturbAFrame : Obligations.HostCannotDisturbAFrame := by
  intro s t htx ht h
  obtain ⟨hl, -⟩ := step_effect h
  have hstuck : s.stuck = false := by
    by_contra hs
    rw [step_stuck hl (by simpa using hs) (by simp [ht])] at h
    cases h
  obtain ⟨u, hu, he⟩ := hostMove_effect s.takeTurn
  cases (hu.symm.trans ((step_host hl ht hstuck).symm.trans h))
  simpa [SameFrame] using he.sameFrame_of_tx (by simpa using htx)

end Sys2Proof.Spec
end

section
/-! The reset gap (43_encoder.md R253, R254): the low at the end of the wire trace, the padding that spans the gap, and the gap
invariant through the host's move and the encoder's step. -/

namespace Sys2Proof.Machine
open Spec

/-! ### The low at the end of the wire trace -/

theorem trailingLow_append_low (w : List Segment) (d : Driver) (ticks : Nat) :
    trailingLow (w ++ [⟨d, false, ticks⟩]) = ticks + trailingLow w := by
  simp [trailingLow, leadingLow]

/-! ### The timing of an admitted build (00_scope.md R7, R8) -/

theorem Timing.legal_iff {t : Timing} {resetTicks : Nat} : t.legal resetTicks = true ↔
    (0 < t.t0h ∧ t.t0h < t.t1h ∧ t.t1h < t.tbit) ∧ 1 ≤ t.subbit ∧ resetTicks ≤ t.padb * 8 * t.subbit := by
  simp only [Timing.legal, Timing.highTimesOk, Timing.subbitOk, Timing.paddingOk, Bool.and_eq_true, decide_eq_true_eq,
    and_assoc]

/-- In an admitted build the timing of either protocol meets R8. -/
theorem Params.timing_legal {p : Params} (h : p.legal = true) (p32 : Bool) :
    (Spec.timing p p32).legal p.resetTicks = true := by
  simp only [Params.legal, Bool.and_eq_true] at h
  obtain ⟨⟨-, h24⟩, h32⟩ := h
  cases p32
  · exact h24
  · exact h32

theorem Params.padding_spans {p : Params} (h : p.legal = true) (p32 : Bool) :
    p.resetTicks ≤ (Spec.timing p p32).padb * 8 * (Spec.timing p p32).subbit :=
  (Timing.legal_iff.1 (Params.timing_legal h p32)).2.2

/-- The gap is not empty, so neither is the padding that spans it. -/
theorem Params.one_le_padb {p : Params} (h : p.legal = true) (p32 : Bool) : 1 ≤ (Spec.timing p p32).padb := by
  have hspan := Params.padding_spans h p32
  have hticks : 1 ≤ p.resetTicks := by
    simp only [Params.legal, Params.resetTicksOk, Bool.and_eq_true, decide_eq_true_eq] at h
    obtain ⟨⟨⟨-, hticks⟩, -⟩, -⟩ := h
    exact hticks
  refine Nat.pos_of_ne_zero fun h0 => ?_
  rw [h0] at hspan
  omega

/-! ### An SPI frame's buffer -/

/-- In an SPI frame XBUF is SNAP's, of XLEN bytes. -/
def State.XbufOk (s : State) : Prop :=
  s.encState = .tx → isSpi s.snap.config = true → s.xbuf = xbufOf s.params s.snap ∧ s.xbuf.length = s.xlen

theorem State.Inv.xbufOk {s : State} (h : s.Inv) : s.XbufOk := by
  intro htx hs
  obtain ⟨hconf, hconfig, hnpix, hpixels, -, hxbuf⟩ := h.tx htx
  refine ⟨hxbuf hs, ?_⟩
  rw [hxbuf hs, length_xbufOf_eq_spiLength (hpixels.trans (congrArg BitVec.toNat hnpix.symm)), (h.configured hconf).xlen,
    if_pos (hconfig ▸ hs), hconfig, hnpix]

/-! ### The gap invariant through a step -/

/-- A bit step of an SPI frame keeps its trailing padding low. -/
theorem State.padding_after_bit {s : State} (hx : s.XbufOk) (hg : s.GapInv) (htx : s.encState = .tx)
    (hs : isSpi s.snap.config = true) (hlt : s.seq < s.seqEnd) :
    (s.seq + 1 - 8 * (s.xlen - (s.snap.timing s.params).padb)) * (s.snap.timing s.params).subbit ≤
      trailingLow (s.wire ++ s.currentWave) := by
  obtain ⟨hxbuf, hlen⟩ := hx htx hs
  rw [State.seqEnd_of_spi hs] at hlt
  by_cases hpad : 8 * (s.xlen - (s.snap.timing s.params).padb) ≤ s.seq
  · have hbit : streamBit s.xbuf s.seq = false := by
      rw [← hlen, hxbuf] at hpad hlt
      rw [hxbuf, streamBit_xbufOf_trailing hpad hlt]
    have hsent := hg.padding htx hs
    rw [State.currentWave_of_spi hs, hbit, trailingLow_append_low, Nat.succ_sub hpad, Nat.succ_mul, ← Snap.timing_eq]
    omega
  · rw [Nat.sub_eq_zero_of_le (by omega), Nat.zero_mul]
    exact Nat.zero_le _

theorem EncoderEffect.gapInv {s t : State} (h : EncoderEffect s t) (hl : s.params.legal = true) (hx : s.XbufOk)
    (hg : s.GapInv) : t.GapInv := by
  cases h with
  | bit htx hlt => exact ⟨fun hi => absurd (htx.symm.trans hi) (by decide), fun _ hs => State.padding_after_bit hx hg htx hs hlt⟩
  | last htx hlast =>
    refine ⟨fun _ hs => ?_, fun hi => by cases hi⟩
    have hs : isSpi s.snap.config = true := hs
    have hpad := State.padding_after_bit hx hg htx hs (by omega)
    obtain ⟨hxbuf, hlen⟩ := hx htx hs
    have hfits := length_xbufOf s.params s.snap
    rw [← hxbuf, hlen] at hfits
    have hsent : s.seq + 1 - 8 * (s.xlen - (s.snap.timing s.params).padb) = (s.snap.timing s.params).padb * 8 := by
      rw [hlast, State.seqEnd_of_spi hs]; omega
    rw [hsent, Snap.timing_eq] at hpad
    exact (Params.padding_spans hl _).trans hpad
  | gap hi =>
    refine ⟨fun _ _ => ?_, fun htx => absurd (hi.symm.trans htx) (by decide)⟩
    rw [State.gapStep_wire, trailingLow_append_low]
    exact Nat.le_add_right _ _
  | none => exact hg

theorem FrameMove.gapInv {s t : State} (h : FrameMove s t) (hp : t.params = s.params) (hg : s.GapInv) : t.GapInv := by
  cases h with
  | same h =>
    obtain ⟨hsnap, -, hxlen, hseq, henc, hwire, -, hgap⟩ := h
    constructor
    · rw [henc, hgap, hwire, hp]; exact hg.idle
    · rw [henc, hsnap, hseq, hxlen, hwire, hp]; exact hg.padding
  | configured hidle henc hwire hgap =>
    refine ⟨fun _ => ?_, fun htx => absurd (henc.symm.trans htx) (by decide)⟩
    rw [hgap, hwire, hp]
    exact hg.idle hidle
  | started _ _ henc hseq =>
    refine ⟨fun hi => absurd (henc.symm.trans hi) (by decide), fun _ _ => ?_⟩
    rw [hseq, Nat.zero_sub, Nat.zero_mul]
    exact Nat.zero_le _

theorem State.GapInv.takeTurn {s : State} (h : s.GapInv) : s.takeTurn.GapInv :=
  ⟨by simpa using h.idle, by simpa using h.padding⟩

theorem State.XbufOk.takeTurn {s : State} (h : s.XbufOk) : s.takeTurn.XbufOk := by
  simpa [State.XbufOk] using h

theorem TurnEffect.gapInv {s t : State} (h : TurnEffect s t) (hl : s.params.legal = true) (hx : s.XbufOk)
    (hg : s.GapInv) : t.GapInv := by
  cases h with
  | host h => exact h.frameMove.gapInv h.params hg
  | encoder h => exact h.gapInv hl hx hg
  | reset => exact ⟨fun _ h => Bool.noConfusion h, fun h => EncState.noConfusion h⟩

/-! ### The start of a frame (R217, R254) -/

/-- Only the host's move starts a frame. -/
theorem TurnEffect.frameMove_of_start {s t : State} (h : TurnEffect s t) (hi : s.encState = .idle)
    (htx : t.encState = .tx) : FrameMove s t := by
  cases h with
  | host h => exact h.frameMove
  | encoder h =>
    cases h with
    | bit h => rw [hi] at h; cases h
    | last => cases htx
    | gap => rw [State.gapStep_encState, hi] at htx; cases htx
    | none => rw [hi] at htx; cases htx
  | reset => cases htx

end Sys2Proof.Machine

namespace Sys2Proof.Spec
open Sys2Proof.Machine

/-- Settles O55: by cases on what a step can do; the trailing padding is 0 bits (`streamBit_xbufOf_trailing`) and spans the gap
(`Params.padding_spans`). -/
theorem everyStepKeepsTheResetGap : Obligations.EveryStepKeepsTheResetGap := by
  intro s t hinv hgap h
  obtain ⟨hl, he⟩ := step_effect h
  exact he.gapInv (by simpa using hl) hinv.xbufOk.takeTurn hgap.takeTurn

/-- Settles O56: a frame starts with a SHOW that is ready; under GPIO the gap has elapsed, and under SPI the leading padding spans
it. -/
theorem everyFrameStartsAfterTheResetGap : Obligations.EveryFrameStartsAfterTheResetGap := by
  intro s t hinv hgap h hi htx
  have hp := step_params h
  obtain ⟨hl, he⟩ := step_effect h
  have hi' : s.takeTurn.encState = .idle := by simpa using hi
  cases he.frameMove_of_start hi' htx with
  | same h =>
    obtain ⟨-, -, -, -, henc, -⟩ := h
    rw [hi', htx] at henc; cases henc
  | configured _ henc => rw [htx] at henc; cases henc
  | started _ hready _ hseq hconfig hxbuf ticks hwire =>
    rw [State.takeTurn_config, State.takeTurn_gapOk] at hready
    rw [State.takeTurn_config] at hconfig hxbuf
    rw [State.takeTurn_params] at hxbuf
    refine ⟨hseq, fun hg => ?_, fun hs => ⟨Params.padding_spans (hp ▸ hl) _, fun j hj => ?_⟩⟩
    · rw [hconfig] at hg
      have hlow := hgap.idle hi (hready.resolve_left (by simp [isGpio_isSpi hg]))
      rw [hp, hwire, State.takeTurn_wire, trailingLow_append_low]
      omega
    · rw [hconfig] at hs
      rw [hp, ← Snap.timing_eq] at hj
      rw [hxbuf hs, streamBit_xbufOf_leading hj]

end Sys2Proof.Spec
end

section
/-! Waveforms (43_encoder.md R236, R241 to R251): a whole frame of either strategy as a run of the encoder, its bits, ticks and pins,
and the merged wire trace that both strategies share. -/

namespace Sys2Proof.Machine
open Spec

/-! ### The encoder from TX start to the end of a frame (R241 to R244) -/

/-- What the encoder emits for bit `k` of the frame. -/
def State.waveAt (s : State) (k : Nat) : List Segment := State.currentWave { s with seq := k }

/-- `s` with the next `n` bits of its frame sent. -/
def State.sent (s : State) (n : Nat) : State :=
  { s with wire := s.wire ++ (List.range' s.seq n).flatMap s.waveAt, seq := s.seq + n }

theorem State.sent_one (s : State) : s.sent 1 = { s with wire := s.wire ++ s.currentWave, seq := s.seq + 1 } := by
  simp [State.sent, State.waveAt]

theorem State.sent_one_sent (s : State) (n : Nat) : (s.sent 1).sent n = s.sent (n + 1) := by
  have hwire : (s.sent 1).wire ++ (List.range' (s.seq + 1) n).flatMap s.waveAt =
      s.wire ++ (List.range' s.seq (n + 1)).flatMap s.waveAt := by simp [State.sent, List.range'_succ]
  have hseq : s.seq + 1 + n = s.seq + (n + 1) := by omega
  show ({ s with
    wire := (s.sent 1).wire ++ (List.range' (s.seq + 1) n).flatMap s.waveAt, seq := s.seq + 1 + n } : State) = _
  rw [hwire, hseq, State.sent]

theorem State.bitStep_eq_sent (s : State) :
    s.bitStep = if s.seq + 1 = s.seqEnd then (s.sent 1).frameEnd else s.sent 1 := by
  rw [State.sent_one]; rfl

/-- The rest of a frame is its bits in order and `frame_end()`. -/
theorem State.encoderRun_to_end {s : State} (htx : s.encState = .tx)
    (hstrat : isGpio s.snap.config = true ∨ isSpi s.snap.config = true) {n : Nat} (hn : s.seq + (n + 1) = s.seqEnd) :
    State.encoderRun (n + 1) s = (s.sent (n + 1)).frameEnd := by
  have hstep := State.encoderStep_of_tx htx hstrat (by omega)
  rw [State.encoderRun, hstep, State.bitStep_eq_sent]
  induction n generalizing s with
  | zero => rw [if_pos hn]; rfl
  | succ n ih =>
    have hnext : (s.sent 1).seq + (n + 1) = (s.sent 1).seqEnd := by
      have hseq : (s.sent 1).seq + (n + 1) = s.seq + (n + 1 + 1) := by simp only [State.sent]; omega
      rw [hseq, hn]; rfl
    have hstep' : (s.sent 1).encoderStep = (s.sent 1).bitStep := State.encoderStep_of_tx htx hstrat (by omega)
    rw [if_neg (by omega), State.encoderRun, hstep', State.bitStep_eq_sent, ih (s := s.sent 1) htx hstrat hnext hstep',
      State.sent_one_sent]

/-- A whole frame from TX start. -/
theorem State.encoderRun_frame {s : State} (hinv : s.Inv) (htx : s.encState = .tx)
    (hstrat : isGpio s.snap.config = true ∨ isSpi s.snap.config = true) (h0 : s.seq = 0) :
    State.encoderRun s.seqEnd s = afterFrame
      { s with wire := s.wire ++ (List.range s.seqEnd).flatMap s.waveAt, seq := s.seqEnd } (isSpi s.snap.config) := by
  have hlt := (hinv.tx htx).seq
  obtain ⟨n, hn⟩ : ∃ n, s.seqEnd = n + 1 := ⟨s.seqEnd - 1, by omega⟩
  rw [hn, State.encoderRun_to_end htx hstrat (by omega), State.frameEnd_eq, State.sent, h0, List.range_eq_range', Nat.zero_add]

/-! ### The waves of a whole frame -/

/-- The waveform of a GPIO frame: its bits' waveforms back to back (R247). -/
def Snap.gpioWave (n : Snap) (t : Timing) : List Segment :=
  (List.range (frameBits n)).flatMap fun k => Spec.gpioWave t (frameBit n k)

/-- The SPI segments of a list of bits (R248). -/
def spiWave (t : Timing) (bits : List Bool) : List Segment := bits.map fun b => ⟨.spi, b, t.subbit⟩

/-- The padding bits at each end of an SPI frame (R236). -/
def paddingBits (t : Timing) : List Bool := List.replicate (8 * t.padb) false

/-- The data bits of an SPI frame: the group `1, b, 0` for each frame bit (R236). -/
def Snap.groupBits (n : Snap) : List Bool := (List.range (frameBits n)).flatMap fun k => [true, frameBit n k, false]

/-- All bits of an SPI frame: padding, the data, padding (R236). -/
def Snap.spiBits (n : Snap) (t : Timing) : List Bool := paddingBits t ++ n.groupBits ++ paddingBits t

theorem spiWave_append (t : Timing) (v w : List Bool) : spiWave t (v ++ w) = spiWave t v ++ spiWave t w := List.map_append

/-- The eight bits of a byte, bit 7 first (20_memory.md R79). -/
def byteBits (b : Byte) : List Bool := (List.range 8).map fun i => b.getLsbD (7 - i)

theorem streamBit_cons (b : Byte) (bs : List Byte) (k : Nat) : streamBit (b :: bs) (8 + k) = streamBit bs k := by
  have hdiv : (8 + k) / 8 = k / 8 + 1 := by omega
  have hmod : (8 + k) % 8 = k % 8 := by omega
  rw [streamBit, hdiv, hmod]; rfl

theorem map_streamBit (bs : List Byte) : (List.range (8 * bs.length)).map (streamBit bs) = bs.flatMap byteBits := by
  induction bs with
  | nil => rfl
  | cons b bs ih =>
    have hfirst : (List.range 8).map (streamBit (b :: bs)) = byteBits b :=
      List.map_congr_left fun i hi => streamBit_byte (b :: bs) 0 (List.mem_range.1 hi) ▸ by simp
    have hrest : streamBit (b :: bs) ∘ (8 + ·) = streamBit bs := funext (streamBit_cons b bs)
    rw [List.length_cons, Nat.mul_succ, Nat.add_comm, List.range_add, List.map_append, List.map_map, hfirst, hrest, ih,
      List.flatMap_cons]

/-- The 24 bits of an expansion are the groups of the byte's bits, in the order of the stream (R223). -/
theorem enc3Bytes_flatMap_byteBits (b : Byte) :
    (enc3Bytes b).flatMap byteBits = (byteBits b).flatMap fun c => [true, c, false] := by
  have h := enc3_group b
  simp only [Nat.forall_lt_succ_right, Nat.not_lt_zero, false_implies, implies_true, true_and] at h
  simp_all [enc3Bytes, byteBits, List.range_succ]

theorem frameBits_eq {n : Snap} (h : n.pixels.length = n.npix.toNat) : frameBits n = 8 * (frameBytes n).length := by
  rw [frameBits, length_frameBytes, h, Nat.mul_right_comm, Nat.mul_comm 8]

theorem replicate_zero_flatMap_byteBits (k : Nat) :
    (List.replicate k 0#8).flatMap byteBits = List.replicate (8 * k) false := by
  have hzero : byteBits 0#8 = List.replicate 8 false := by decide
  rw [List.flatMap_replicate, hzero, List.flatten_replicate_replicate, Nat.mul_comm]

/-- The SPI stream is padding, one group per frame bit, and padding (R236). -/
theorem map_streamBit_xbufOf {n : Snap} (h : n.pixels.length = n.npix.toNat) (p : Params) :
    (List.range (8 * (xbufOf p n).length)).map (streamBit (xbufOf p n)) =
      n.spiBits (Spec.timing p (isP32 n.config)) := by
  have hdata : ((frameBytes n).flatMap enc3Bytes).flatMap byteBits = n.groupBits := by
    simp only [List.flatMap_assoc, enc3Bytes_flatMap_byteBits]
    rw [← List.flatMap_assoc, ← map_streamBit, List.flatMap_map, Snap.groupBits, frameBits_eq h]
    rfl
  rw [map_streamBit, xbufOf_eq, List.flatMap_append, List.flatMap_append, hdata, replicate_zero_flatMap_byteBits,
    Snap.timing_eq]
  rfl

/-- A whole GPIO frame (R247). -/
theorem State.encoderRun_gpio {s : State} (hinv : s.Inv) (htx : s.encState = .tx) (hg : isGpio s.snap.config = true)
    (h0 : s.seq = 0) : State.encoderRun (frameBits s.snap) s = afterFrame
      { s with
        wire := s.wire ++ s.snap.gpioWave (Spec.timing s.params (isP32 s.snap.config))
        seq := frameBits s.snap } false := by
  have hrun := State.encoderRun_frame hinv htx (.inl hg) h0
  have hwave : s.waveAt = fun k => Spec.gpioWave (Spec.timing s.params (isP32 s.snap.config)) (frameBit s.snap k) :=
    funext fun k => State.currentWave_of_gpio (s := { s with seq := k }) hg
  rwa [State.seqEnd_of_gpio hg, isGpio_isSpi hg, hwave] at hrun

/-- A whole SPI frame (R236). -/
theorem State.encoderRun_spi {s : State} (hinv : s.Inv) (htx : s.encState = .tx) (hs : isSpi s.snap.config = true)
    (h0 : s.seq = 0) {t : Timing} (ht : t = Spec.timing s.params (isP32 s.snap.config)) :
    (s.snap.spiBits t).length = 8 * s.xlen ∧ State.encoderRun (8 * s.xlen) s =
      afterFrame { s with wire := s.wire ++ spiWave t (s.snap.spiBits t), seq := 8 * s.xlen } true := by
  subst ht
  obtain ⟨hxbuf, hlen⟩ := hinv.xbufOk htx hs
  obtain ⟨-, -, hnpix, hpixels, -, -⟩ := hinv.tx htx
  have hbits := map_streamBit_xbufOf (hpixels.trans (congrArg BitVec.toNat hnpix.symm)) s.params
  rw [← hxbuf, hlen] at hbits
  have hwave : s.waveAt = fun k => [⟨.spi, streamBit s.xbuf k, (Spec.timing s.params (isP32 s.snap.config)).subbit⟩] :=
    funext fun k => State.currentWave_of_spi (s := { s with seq := k }) hs
  have hrun := State.encoderRun_frame hinv htx (.inr hs) h0
  rw [State.seqEnd_of_spi hs, hs, hwave, ← List.map_eq_flatMap] at hrun
  refine ⟨by simp [← hbits], ?_⟩
  rw [hrun, spiWave, ← hbits, List.map_map]
  rfl

/-! ### Ticks and pins of a frame (R247, R250, R251) -/

theorem totalTicks_flatMap_const {α : Type} {f : α → List Segment} {k : Nat} (hf : ∀ a, totalTicks (f a) = k)
    (l : List α) : totalTicks (l.flatMap f) = l.length * k := by
  have happend : ∀ v w, totalTicks (v ++ w) = totalTicks v + totalTicks w := fun v w => by simp [totalTicks]
  induction l with
  | nil => simp [totalTicks]
  | cons a l ih => rw [List.flatMap_cons, happend, hf, ih, List.length_cons, Nat.succ_mul, Nat.add_comm]

/-- A GPIO bit's two pulses fill its period: the high one is no longer than it (R246). -/
theorem totalTicks_gpioWave {t : Timing} {resetTicks : Nat} (h : t.legal resetTicks = true) (b : Bool) :
    totalTicks (Spec.gpioWave t b) = t.tbit := by
  obtain ⟨⟨-, h01, h1⟩, -⟩ := Timing.legal_iff.1 h
  cases b <;> simp [totalTicks, Spec.gpioWave] <;> omega

/-- A pin that carries every segment's level carries the wave. -/
theorem pinTraceFrom_own {p : Pin} {w : List Segment} (h : ∀ g ∈ w, ∀ n, Segment.onPin p n g = [(g.level, 2 * g.ticks)])
    (n : Nat) : pinTraceFrom p n w = w.map fun g => (g.level, 2 * g.ticks) := by
  induction w generalizing n with
  | nil => rfl
  | cons g w ih =>
    obtain ⟨hg, hw⟩ := List.forall_mem_cons.1 h
    rw [pinTraceFrom, hg, ih hw]
    rfl

theorem mem_gpioWave_driver {n : Snap} {t : Timing} {g : Segment} (h : g ∈ n.gpioWave t) : g.driver = .gpio := by
  obtain ⟨k, -, hk⟩ := List.mem_flatMap.1 h
  have hbit : ∀ b, ∀ g ∈ Spec.gpioWave t b, g.driver = .gpio := fun b => by cases b <;> simp [Spec.gpioWave]
  exact hbit _ g hk

theorem mem_spiWave_driver {t : Timing} {bits : List Bool} {g : Segment} (h : g ∈ spiWave t bits) : g.driver = .spi := by
  obtain ⟨b, -, rfl⟩ := List.mem_map.1 h
  rfl

theorem totalTicks_spiWave (t : Timing) (bits : List Bool) : totalTicks (spiWave t bits) = bits.length * t.subbit := by
  simp [totalTicks, spiWave, Function.comp_def]

theorem sckPeriods_spiWave (t : Timing) (bits : List Bool) :
    sckPeriods (spiWave t bits) = List.replicate bits.length t.subbit := by
  have hall : (spiWave t bits).filter (fun g => decide (g.driver = .spi)) = spiWave t bits :=
    List.filter_eq_self.2 fun g hg => decide_eq_true (mem_spiWave_driver hg)
  rw [sckPeriods, hall, spiWave, List.map_map]
  exact List.map_const' ..

/-- SPI_MOSI carries the bits (R250). -/
theorem pinTraceFrom_mosi (t : Timing) (bits : List Bool) (n : Nat) :
    pinTraceFrom .spiMosi n (spiWave t bits) = bits.map fun b => (b, 2 * t.subbit) := by
  have hown : ∀ g ∈ spiWave t bits, ∀ n, Segment.onPin .spiMosi n g = [(g.level, 2 * g.ticks)] := fun g hmem n => by
    obtain ⟨d, l, k⟩ := g
    cases mem_spiWave_driver hmem
    rfl
  rw [pinTraceFrom_own hown, spiWave, List.map_map]
  rfl

/-- SPI_SCK has one period per bit: low to its rise, then high to the bit's end (R251). -/
theorem pinTraceFrom_sck (t : Timing) (bits : List Bool) (n : Nat) :
    pinTraceFrom .spiSck n (spiWave t bits) = (List.range bits.length).flatMap fun j =>
      [(false, sckLow (n + j) t.subbit), (true, 2 * t.subbit - sckLow (n + j) t.subbit)] := by
  induction bits generalizing n with
  | nil => rfl
  | cons b bits ih =>
    have hshift : ∀ j, n + 1 + j = n + (j + 1) := fun j => by omega
    have htail := ih (n + 1)
    simp only [hshift] at htail
    rw [List.length_cons, List.range_succ_eq_map, List.flatMap_cons, List.flatMap_map, ← htail]
    rfl

/-! ### The merged wire trace (R248, R249) -/

/-- The merged trace of a data bit under the equalities of R249, `u` ticks being a third of the bit. -/
def bitTrace (u : Nat) (b : Bool) : List (Bool × Nat) :=
  if b then [(true, 2 * u), (false, u)] else [(true, u), (false, 2 * u)]

/-- The trace goes on with a high segment, if it goes on. -/
def StartsHigh (w : List (Bool × Nat)) : Prop := ∀ x ∈ w.head?, x.1 = true

/-- Pieces that merge to traces from a high to a low segment do not merge with one another. -/
theorem mergeTrace_flatMap {α : Type} {piece merged : α → List (Bool × Nat)}
    (hhigh : ∀ a w, StartsHigh (merged a ++ w))
    (hmerge : ∀ a rest, StartsHigh (mergeTrace rest) → mergeTrace (piece a ++ rest) = merged a ++ mergeTrace rest)
    (l : List α) : mergeTrace (l.flatMap piece) = l.flatMap merged := by
  suffices h : StartsHigh (l.flatMap merged) ∧ mergeTrace (l.flatMap piece) = l.flatMap merged from h.2
  induction l with
  | nil => exact ⟨by simp [StartsHigh], rfl⟩
  | cons a l ih =>
    obtain ⟨hstart, heq⟩ := ih
    rw [List.flatMap_cons, List.flatMap_cons]
    exact ⟨hhigh a _, by rw [hmerge a _ (heq ▸ hstart), heq]⟩

theorem startsHigh_bitTrace_append (u : Nat) (b : Bool) (w : List (Bool × Nat)) : StartsHigh (bitTrace u b ++ w) := by
  cases b <;> simp [StartsHigh, bitTrace]

/-- A low segment before a trace that starts high stays apart. -/
theorem mergeTrace_low_cons {rest : List (Bool × Nat)} (h : StartsHigh (mergeTrace rest)) (t : Nat) :
    mergeTrace ((false, t) :: rest) = (false, t) :: mergeTrace rest := by
  rw [mergeTrace]
  cases hm : mergeTrace rest with
  | nil => rfl
  | cons x m =>
    obtain ⟨l, k⟩ := x
    have hl : l = true := by simpa [StartsHigh, hm] using h
    simp [hl]

/-- A segment before a trace merges with the trace's first segment if it has the same level. -/
theorem mergeTrace_cons_of_eq_cons {rest m : List (Bool × Nat)} {l' : Bool} {t' : Nat}
    (h : mergeTrace rest = (l', t') :: m) (l : Bool) (t : Nat) :
    mergeTrace ((l, t) :: rest) = if l = l' then (l, t + t') :: m else (l, t) :: (l', t') :: m := by
  rw [mergeTrace, h]

/-- The two pulses of a GPIO bit (R246). -/
theorem mergeTrace_bitTrace_append {rest : List (Bool × Nat)} (h : StartsHigh (mergeTrace rest)) (u : Nat) (b : Bool) :
    mergeTrace (bitTrace u b ++ rest) = bitTrace u b ++ mergeTrace rest := by
  cases b with
  | false => exact mergeTrace_cons_of_eq_cons (mergeTrace_low_cons h (2 * u)) true u
  | true => exact mergeTrace_cons_of_eq_cons (mergeTrace_low_cons h u) true (2 * u)

/-- The group `1, b, 0` of an SPI frame: its middle bit joins the first or the last (R248). -/
theorem mergeTrace_group_append {rest : List (Bool × Nat)} (h : StartsHigh (mergeTrace rest)) (u : Nat) (b : Bool) :
    mergeTrace ([(true, u), (b, u), (false, u)] ++ rest) = bitTrace u b ++ mergeTrace rest := by
  have hpair := mergeTrace_cons_of_eq_cons (mergeTrace_low_cons h u) b u
  cases b with
  | false =>
    rw [if_pos rfl, ← Nat.two_mul] at hpair
    exact mergeTrace_cons_of_eq_cons hpair true u
  | true =>
    rw [if_neg (by decide)] at hpair
    rw [bitTrace, if_pos rfl, Nat.two_mul]
    exact mergeTrace_cons_of_eq_cons hpair true u

theorem mergeTrace_replicate (k : Nat) (l : Bool) (u : Nat) :
    mergeTrace (List.replicate (k + 1) (l, u)) = [(l, (k + 1) * u)] := by
  induction k with
  | zero => simp [mergeTrace]
  | succ k ih =>
    rw [List.replicate_succ, mergeTrace, ih, Nat.succ_mul (k + 1), Nat.add_comm _ u]
    simp

theorem wireTrace_gpioWave {n : Snap} {t : Timing} {u : Nat} (hbit : t.tbit = 3 * u) (h0 : t.t0h = u) (h1 : t.t1h = 2 * u) :
    wireTrace (n.gpioWave t) = (List.range (frameBits n)).flatMap fun k => bitTrace u (frameBit n k) := by
  have hpulses : ∀ b, (Spec.gpioWave t b).map (fun g => (g.level, g.ticks)) = bitTrace u b := fun b => by
    cases b
    · simp [Spec.gpioWave, bitTrace, hbit, h0]; omega
    · simp [Spec.gpioWave, bitTrace, hbit, h1]; omega
  simp only [wireTrace, Snap.gpioWave, List.map_flatMap, hpulses]
  exact mergeTrace_flatMap (fun _ => startsHigh_bitTrace_append u _) (fun _ _ h => mergeTrace_bitTrace_append h u _) _

theorem wireTrace_spiWave_groupBits (n : Snap) (t : Timing) :
    wireTrace (spiWave t n.groupBits) = (List.range (frameBits n)).flatMap fun k => bitTrace t.subbit (frameBit n k) := by
  simp only [wireTrace, spiWave, Snap.groupBits, List.map_flatMap, List.map_cons, List.map_nil]
  exact mergeTrace_flatMap (fun _ => startsHigh_bitTrace_append _ _) (fun _ _ h => mergeTrace_group_append h _ _) _

theorem wireTrace_spiWave_paddingBits {t : Timing} (h : 1 ≤ t.padb) :
    wireTrace (spiWave t (paddingBits t)) = [(false, 8 * t.padb * t.subbit)] := by
  obtain ⟨k, hk⟩ : ∃ k, 8 * t.padb = k + 1 := ⟨8 * t.padb - 1, by omega⟩
  rw [wireTrace, spiWave, paddingBits, List.map_replicate, List.map_replicate, hk, mergeTrace_replicate]

end Sys2Proof.Machine

namespace Sys2Proof.Spec
open Sys2Proof.Machine

/-- Settles O40: the run by induction on the bits still to send (`State.encoderRun_to_end`); every segment is DOUT_G's. -/
theorem gpioFrameWaveform : Obligations.GpioFrameWaveform := by
  intro s hinv htx hg h0
  have hlegal := Params.timing_legal hinv.legal (isP32 s.snap.config)
  refine ⟨State.encoderRun_gpio hinv htx hg h0, ?_, pinTraceFrom_own fun g hmem n => ?_, fun p n hp => ?_⟩
  · rw [totalTicks_flatMap_const fun k => totalTicks_gpioWave hlegal _, List.length_range]
  · obtain ⟨d, l, k⟩ := g
    cases mem_gpioWave_driver hmem
    rfl
  · refine pinTraceFrom_low (fun g hmem => Segment.onPin_of_leavesLow ?_) n
    rw [mem_gpioWave_driver hmem]
    exact hp

/-- Settles O41: the run as for GPIO, with the bits of XBUF (`map_streamBit_xbufOf`); every segment is an SPI bit. -/
theorem spiFrameStream : Obligations.SpiFrameStream := by
  intro s hinv htx hs h0 t
  obtain ⟨-, hsubbit, -⟩ := Timing.legal_iff.1 (Params.timing_legal hinv.legal (isP32 s.snap.config))
  obtain ⟨hlen, hrun⟩ := State.encoderRun_spi hinv htx hs h0 (t := t) rfl
  rw [← hlen] at hrun ⊢
  refine ⟨hrun, totalTicks_spiWave t _, sckPeriods_spiWave t _, pinTraceFrom_mosi t _,
    fun n => ⟨fun j => sckLow (n + j) t.subbit, fun j => ?_, pinTraceFrom_sck t _ n⟩, fun n => ?_⟩
  · exact sckLow_bounds _ hsubbit
  · refine pinTraceFrom_low (fun g hmem => Segment.onPin_of_leavesLow ?_) n
    rw [mem_spiWave_driver hmem]
    exact rfl

/-- Settles O42: the pulses of a GPIO bit and the group of an SPI bit merge to the same trace, and the padding to one low. -/
theorem strategiesSendTheSameDataWaveform : Obligations.StrategiesSendTheSameDataWaveform := by
  intro s r hs hr hstx hrtx hs0 hr0 hg hspi t u htbit ht0 ht1 hbits hbit data padding
  obtain ⟨-, hrun⟩ := State.encoderRun_spi hr hrtx hspi hr0 (t := u) rfl
  have hpad := wireTrace_spiWave_paddingBits (Params.one_le_padb hr.legal (isP32 r.snap.config))
  have hdata : ((List.range (frameBits r.snap)).flatMap fun k => bitTrace u.subbit (frameBit r.snap k)) = data := by
    rw [← hbits]
    exact List.flatMap_congr fun k hk => by rw [← hbit k (List.mem_range.1 hk)]; rfl
  refine ⟨s.snap.gpioWave t, spiWave u (paddingBits u), spiWave u r.snap.groupBits, spiWave u (paddingBits u), ?_, ?_,
    wireTrace_gpioWave htbit ht0 ht1, hpad, (wireTrace_spiWave_groupBits r.snap u).trans hdata, hpad⟩
  · rw [State.encoderRun_gpio hs hstx hg hs0]; rfl
  · rw [hrun, Snap.spiBits, spiWave_append, spiWave_append]; rfl

end Sys2Proof.Spec
end

section
/-! Exceptions (60_exceptions.md R281 to R283, R295): the fields of ERR after an error, and the machine's invariant through every
step. -/

namespace Sys2Proof.Machine
open Spec

/-! ### The ERR word (10_state.md R25, R281, R283) -/

/-- ERR with CODE, OPC and ACC set is the sum of its fields at their bits. -/
theorem errSet_toNat (e : Word) (code opc : Byte) (acc : Bool) : (errSet e code opc acc).toNat =
    code.toNat + 256 * (e.toNat / 256 % 256) + 65536 * opc.toNat + 16777216 * acc.toNat +
      33554432 * (e.toNat / 33554432) := by
  have hlt := e.isLt
  simp only [errSet, toNat_append_eq_add, BitVec.toNat_ofBool, BitVec.extractLsb'_toNat, Nat.shiftRight_eq_div_pow]
  omega

/-- The codes are those of R281. -/
theorem ErrCode.code_toNat_le (c : ErrCode) : c.code.toNat ≤ 0x0A := by cases c <;> decide

/-- Setting MULTI leaves CODE alone. -/
theorem errCode_or_multi (e : Word) : errCode (e ||| 0x100#32) = errCode e := by
  rw [errCode, BitVec.extractLsb'_or]
  exact BitVec.or_zero

/-- Setting MULTI leaves OPC alone. -/
theorem errOpc_or_multi (e : Word) : errOpc (e ||| 0x100#32) = errOpc e := by
  rw [errOpc, BitVec.extractLsb'_or]
  exact BitVec.or_zero

/-- Setting MULTI leaves ACC alone. -/
theorem errAcc_or_multi (e : Word) : errAcc (e ||| 0x100#32) = errAcc e := by
  rw [errAcc, BitVec.getLsbD_or]
  exact Bool.or_false _

/-- The reserved bits of ERR read 0 after a first error. -/
theorem errSet_zero_reserved (code opc : Byte) (acc : Bool) :
    errSet 0#32 code opc acc &&& 0xFE00FE00#32 = 0#32 := by
  have hmask : 0xFE00FE00#32 = 0x7F#7 ++ 0#1 ++ 0#8 ++ 0xFE#8 ++ 0#8 := rfl
  rw [hmask, errSet, BitVec.and_append, BitVec.and_append, BitVec.and_append, BitVec.and_append]
  simp

/-- Recording an error keeps ERR good; only a BAD_ACCESS is recorded with ACC = 1 (20_memory.md R73). -/
theorem ErrOk.record {e : Word} (h : ErrOk e) {c : ErrCode} {opc : Byte} {acc : Bool}
    (hacc : acc = true → c = .badAccess) : ErrOk (errRecord e c opc acc) := by
  by_cases hcode : errCode e = 0#8
  · rw [errRecord_first hcode, h.empty hcode]
    refine ⟨errSet_zero_reserved _ _ _, ?_, fun h0 => ?_, fun ha => ?_⟩
    · rw [errSet_code]; exact c.code_toNat_le
    · rw [errSet_code] at h0; exact absurd h0 c.code_ne_zero
    · rw [errSet_acc] at ha
      rw [errSet_code, errSet_opc, hacc ha, ha]
      exact ⟨rfl, rfl⟩
  · rw [errRecord_later hcode]
    refine ⟨?_, ?_, fun h0 => ?_, fun ha => ?_⟩
    · rw [BitVec.and_or_distrib_right, h.reserved]; rfl
    · rw [errCode_or_multi]; exact h.code
    · rw [errCode_or_multi] at h0; exact absurd h0 hcode
    · rw [errAcc_or_multi] at ha
      rw [errCode_or_multi, errOpc_or_multi]
      exact h.access ha

theorem errOk_zero : ErrOk 0#32 := ⟨by decide, by decide, by decide, by decide⟩

/-! ### An accepted configuration (43_encoder.md R211 to R215) -/

theorem cfgAccepted_toNat (w : Word) : (cfgAccepted w).toNat = w.toNat % 32 + w.toNat / 256 % 256 * 256 := by
  rw [cfgAccepted_eq, BitVec.toNat_ofNat, acceptedConfig]
  omega

@[simp] theorem cfgProto_cfgAccepted (w : Word) : cfgProto (cfgAccepted w) = cfgProto w := by
  rw [← BitVec.toNat_inj, cfgProto_toNat, cfgProto_toNat, cfgAccepted_toNat]
  omega

@[simp] theorem cfgStrat_cfgAccepted (w : Word) : cfgStrat (cfgAccepted w) = cfgStrat w := by
  rw [← BitVec.toNat_inj, cfgStrat_toNat, cfgStrat_toNat, cfgAccepted_toNat]
  omega

@[simp] theorem cfgOrder_cfgAccepted (w : Word) : cfgOrder (cfgAccepted w) = cfgOrder w := by
  have horder : ∀ x : Word, (cfgOrder x).toNat = x.toNat / 256 % 256 := fun x => by
    simp [cfgOrder, BitVec.extractLsb'_toNat, Nat.shiftRight_eq_div_pow]
  rw [← BitVec.toNat_inj, horder, horder, cfgAccepted_toNat]
  omega

/-- Accepting a configuration clears its reserved bits once and for all. -/
theorem cfgAccepted_idem (w : Word) : cfgAccepted (cfgAccepted w) = cfgAccepted w := by
  rw [← BitVec.toNat_inj, cfgAccepted_toNat (cfgAccepted w), cfgAccepted_toNat w]
  omega

/-- The checks read no reserved bit, nor ASYNC. -/
theorem cfgCheck_cfgAccepted (p : Params) (w n : Word) : cfgCheck p (cfgAccepted w) n = cfgCheck p w n := by
  simp only [cfgCheck, cfgProto_cfgAccepted, cfgStrat_cfgAccepted, cfgOrder_cfgAccepted]

/-- A configuration that passes the checks has 1 to PIXEL_CAP pixels. -/
theorem npix_of_cfgCheck {p : Params} {w n : Word} (h : cfgCheck p w n = none) :
    0 < n.toNat ∧ n.toNat ≤ p.pixelCap := by
  unfold cfgCheck at h
  split_ifs at h
  omega

theorem configuredOk_configure {s : State} {w n : Word} (h : cfgCheck s.params w n = none) :
    ConfiguredOk (s.configure w n) := by
  refine ⟨(cfgCheck_cfgAccepted ..).trans h, ?_⟩
  simp [isSpi]

/-- A frame of a configuration in use has at least one bit to send. -/
theorem ConfiguredOk.seqEnd_pos {s : State} (h : ConfiguredOk s) : 0 < s.acceptShow.seqEnd := by
  obtain ⟨hn, -⟩ := npix_of_cfgCheck h.passes
  have hc : 0 < channels (cfgProto s.config) := Nat.add_pos_left (by decide) _
  show 0 < if isSpi s.config then 8 * s.xlen else s.npix.toNat * 8 * channels (cfgProto s.config)
  split
  · next hs =>
    rw [h.xlen, if_pos hs, spiLength]
    positivity
  · positivity

/-! ### The invariant in two parts -/

/-- What the invariant says of the build, the RAMs and the registers (00_scope.md R8, 10_state.md R25 to R31, R37, R38). -/
structure State.StorageOk (s : State) : Prop where
  legal : s.params.legal = true
  memWf : s.mem.wf
  memMapped : s.RamMapped
  err : ErrOk s.err
  irqStat : s.irqStat &&& 0xFFFFFFFE#32 = 0#32
  irqEn : s.irqEn &&& 0xFFFFFFFC#32 = 0#32
  config : cfgAccepted s.config = s.config
  npix : s.npix.toNat ≤ s.params.pixelCap
  paln : s.paln.toNat ≤ s.params.palCap

/-- What the invariant says of the configuration in use, of the frame in TX and of HELD (10_state.md R41 to R45,
40_command_unit.md R132, R133). -/
structure State.ControlOk (s : State) : Prop where
  configured : s.cfgst = .configured → ConfiguredOk s
  tx : s.encState = .tx → TxOk s
  heldShow : s.held = .waitingShow → s.cfgst = .configured
  blocking : s.held = .blockingShow ↔ (s.encState = .tx ∧ cfgAsync s.snap.config = false)

theorem State.inv_iff {s : State} : s.Inv ↔ s.StorageOk ∧ s.ControlOk :=
  ⟨fun h => ⟨{ h with }, { h with }⟩, fun ⟨hs, hc⟩ => { hs, hc with }⟩

/-! ### The build, the RAMs and the registers through a step -/

theorem State.StorageOk.raise {s : State} (h : s.StorageOk) (c : ErrCode) (opc : Byte) : (s.raise c opc).StorageOk :=
  { h with err := h.err.record (fun ha => Bool.noConfusion ha) }

theorem State.StorageOk.badAccess {s : State} (h : s.StorageOk) : s.badAccess.StorageOk :=
  { h with err := h.err.record (fun _ => rfl) }

/-- A word stored in one of the RAMs leaves memory canonical and inside them. -/
theorem State.StorageOk.setRamWord {s : State} (h : s.StorageOk) {off : Nat} (hoff : RamOff s.params off) (w : Word) :
    (s.setRamWord off w).StorageOk :=
  { h with
    memWf := s.setRamWord_memWf off w h.memWf
    memMapped := fun c hc => by
      obtain ⟨halign, hrange⟩ := hoff
      rcases Memory.mem_writeWord hc with hnew | hold
      · show (_ ∧ c.1 < 0x400 + 4 * s.params.palCap) ∨ (_ ∧ c.1 < 0x1000 + 4 * s.params.pixelCap)
        omega
      · exact h.memMapped c hold }

theorem State.StorageOk.setPal {s : State} (h : s.StorageOk) {i : Nat} (hi : i < s.params.palCap) (w : Word) :
    (s.setPal i w).StorageOk :=
  h.setRamWord ⟨by unfold palOff; omega, by unfold palOff; omega⟩ w

theorem State.StorageOk.setPix {s : State} (h : s.StorageOk) {i : Nat} (hi : i < s.params.pixelCap) (w : Word) :
    (s.setPix i w).StorageOk :=
  h.setRamWord ⟨by unfold pixOff; omega, by unfold pixOff; omega⟩ w

theorem State.StorageOk.fillPixels {s : State} (h : s.StorageOk) (f : Nat → Word) {n : Nat} (hn : n ≤ s.params.pixelCap) :
    (State.fillPixels f n s).StorageOk := by
  induction n with
  | zero => exact h
  | succ n ih => exact (ih (by omega)).setPix (by rw [State.fillPixels_params]; omega) _

theorem CommandEffect.storageOk {s t : State} (h : CommandEffect s t) (hs : s.StorageOk) : t.StorageOk := by
  cases h
  case error => exact hs.raise _ _
  case count hcap => exact { hs with paln := hcap }
  case cfgError c _ => exact { hs.raise c 0x30#8 with }
  case configured hc => exact { hs with config := cfgAccepted_idem _, npix := (npix_of_cfgCheck hc).2 }
  case filled f => exact hs.fillPixels f hs.npix
  all_goals exact { hs with }

/-- Writing 1 to clear leaves IRQ_STAT's reserved bits 0. -/
theorem irqStat_reserved_and {x : Word} (h : x &&& 0xFFFFFFFE#32 = 0#32) (y : Word) :
    x &&& y &&& 0xFFFFFFFE#32 = 0#32 := by
  rw [BitVec.and_assoc, BitVec.and_comm y, ← BitVec.and_assoc, h, BitVec.zero_and]

/-- IRQ_EN keeps bits 1:0 of the word written. -/
theorem irqEn_reserved (w : Word) : w &&& 3#32 &&& 0xFFFFFFFC#32 = 0#32 := by
  rw [BitVec.and_assoc]
  exact BitVec.and_zero

theorem AccessEffect.storageOk {s t : State} (h : AccessEffect s t) (hs : s.StorageOk) : t.StorageOk := by
  cases h
  case command h => exact h.storageOk hs
  case illegal => exact hs.raise _ _
  case bad => exact hs.badAccess
  case badObserved => exact { hs.badAccess with }
  case clearErr => exact { hs with err := errOk_zero }
  case irqStat w => exact { hs with irqStat := irqStat_reserved_and hs.irqStat _ }
  case irqEn w => exact { hs with irqEn := irqEn_reserved w }
  case pal w hi => exact hs.setPal hi w
  case pix w hi => exact hs.setPix hi w
  all_goals exact { hs with }

theorem HostEffect.storageOk {s t : State} (h : HostEffect s t) (hs : s.StorageOk) : t.StorageOk := by
  cases h
  case access h => exact h.storageOk { hs with }
  case again h => exact h.storageOk { hs with }
  all_goals exact { hs with }

theorem EncoderEffect.storageOk {s t : State} (h : EncoderEffect s t) (hs : s.StorageOk) : t.StorageOk := by
  cases h
  case last =>
    refine { hs with irqStat := ?_ }
    show (s.irqStat ||| 1#32) &&& 0xFFFFFFFE#32 = 0#32
    rw [BitVec.and_or_distrib_right, hs.irqStat]
    rfl
  all_goals exact { hs with }

theorem State.StorageOk.applyReset {s : State} (h : s.StorageOk) : s.applyReset.StorageOk where
  legal := h.legal
  memWf := List.Pairwise.nil
  memMapped := fun _ hc => absurd hc List.not_mem_nil
  err := errOk_zero
  irqStat := BitVec.zero_and
  irqEn := BitVec.zero_and
  config := (by decide : cfgAccepted 0#32 = 0#32)
  npix := Nat.zero_le _
  paln := Nat.zero_le _

theorem TurnEffect.storageOk {s t : State} (h : TurnEffect s t) (hs : s.StorageOk) : t.StorageOk := by
  cases h
  case host h => exact h.storageOk hs
  case encoder h => exact h.storageOk hs
  case reset => exact hs.applyReset

/-! ### The configuration, the frame and HELD through a step -/

/-- The configuration, the encoder and the frame are as they were. -/
structure SameSetup (s t : State) : Prop where
  params   : t.params = s.params
  config   : t.config = s.config
  npix     : t.npix = s.npix
  xlen     : t.xlen = s.xlen
  cfgst    : t.cfgst = s.cfgst
  encState : t.encState = s.encState
  seq      : t.seq = s.seq
  snap     : t.snap = s.snap
  xbuf     : t.xbuf = s.xbuf

theorem ConfiguredOk.of_same {s t : State} (h : ConfiguredOk s) (hst : SameSetup s t) : ConfiguredOk t where
  passes := by rw [hst.params, hst.config, hst.npix]; exact h.passes
  xlen := by rw [hst.params, hst.config, hst.npix, hst.xlen]; exact h.xlen

theorem TxOk.of_same {s t : State} (h : TxOk s) (hst : SameSetup s t) : TxOk t where
  configured := hst.cfgst.trans h.configured
  config := by rw [hst.snap, hst.config]; exact h.config
  npix := by rw [hst.snap, hst.npix]; exact h.npix
  pixels := by rw [hst.snap, hst.npix]; exact h.pixels
  seq := by rw [State.seqEnd, hst.seq, hst.snap, hst.xlen]; exact h.seq
  xbuf := by rw [hst.params, hst.snap, hst.xbuf]; exact h.xbuf

/-- What is held may change between empty, a waiting CFG and, while configured, a waiting SHOW. -/
theorem State.ControlOk.of_same {s t : State} (h : s.ControlOk) (hst : SameSetup s t)
    (hshow : t.held = .waitingShow → s.cfgst = .configured) (hblock : t.held = .blockingShow ↔ s.held = .blockingShow) :
    t.ControlOk where
  configured := fun hc => (h.configured (hst.cfgst ▸ hc)).of_same hst
  tx := fun htx => (h.tx (hst.encState ▸ htx)).of_same hst
  heldShow := fun hw => hst.cfgst.trans (hshow hw)
  blocking := by rw [hst.encState, hst.snap]; exact hblock.trans h.blocking

/-- Outside TX no frame and no blocking SHOW is left to speak of. -/
theorem State.ControlOk.of_idle {t : State} (hi : t.encState = .idle) (hc : t.cfgst = .configured → ConfiguredOk t)
    (hshow : t.held = .waitingShow → t.cfgst = .configured) (hblock : t.held ≠ .blockingShow) : t.ControlOk where
  configured := hc
  tx := fun htx => by rw [hi] at htx; cases htx
  heldShow := hshow
  blocking := by simp [hi, hblock]

/-- A SHOW accepted while configured starts a good frame, and is held exactly if it blocks (R217, 40_command_unit.md R133). -/
theorem State.ControlOk.acceptShow {s : State} (h : s.ControlOk) (hc : s.cfgst = .configured) : s.acceptShow.ControlOk where
  configured := fun _ => ⟨(h.configured hc).passes, (h.configured hc).xlen⟩
  tx := fun _ =>
    { configured := hc
      config := rfl
      npix := rfl
      pixels := s.takeSnap_pixels.1
      seq := (h.configured hc).seqEnd_pos
      xbuf := fun hs => if_pos hs }
  heldShow := fun _ => hc
  blocking := by simp [State.takeSnap]

theorem CommandEffect.controlOk {s t : State} (h : CommandEffect s t) (hs : s.ControlOk) (hh : s.held = .empty) :
    t.ControlOk := by
  have hblock : s.held ≠ .blockingShow := by simp [hh]
  have hshow : s.held ≠ .waitingShow := by simp [hh]
  cases h
  case cfgError hi _ _ => exact .of_idle hi (fun hc => by cases hc) (fun hw => absurd hw hshow) hblock
  case configured hi hc => exact .of_idle hi (fun _ => configuredOk_configure hc) (fun _ => rfl) hblock
  case heldCfg => exact hs.of_same (by constructor <;> rfl) (by simp) (by simp [hh])
  case heldShow hc _ => exact hs.of_same (by constructor <;> rfl) (fun _ => hc) (by simp [hh])
  case accepted hc _ => exact hs.acceptShow hc
  case filled => exact hs.of_same (by constructor <;> simp) (by simp [hh]) (by simp)
  all_goals exact hs.of_same (by constructor <;> rfl) hs.heldShow Iff.rfl

theorem AccessEffect.controlOk {s t : State} (h : AccessEffect s t) (hs : s.ControlOk) (hh : s.held = .empty) :
    t.ControlOk := by
  cases h
  case command h => exact h.controlOk hs hh
  all_goals exact hs.of_same (by constructor <;> rfl) hs.heldShow Iff.rfl

theorem HostEffect.controlOk {s t : State} (h : HostEffect s t) (hs : s.ControlOk) : t.ControlOk := by
  cases h
  case none => exact hs
  case access hh h => exact h.controlOk (hs.of_same (by constructor <;> rfl) hs.heldShow Iff.rfl) hh
  case poll => exact hs.of_same (by constructor <;> rfl) hs.heldShow Iff.rfl
  case again hh h =>
    have hblock : s.held ≠ .blockingShow := by rcases hh with hh | hh <;> simp [hh]
    exact h.controlOk (hs.of_same (by constructor <;> rfl) (by simp) (by simp [hblock])) rfl

theorem EncoderEffect.controlOk {s t : State} (h : EncoderEffect s t) (hs : s.ControlOk) : t.ControlOk := by
  cases h
  case bit htx hlt hnot =>
    exact
      { configured := fun hc => ⟨(hs.configured hc).passes, (hs.configured hc).xlen⟩
        tx := fun _ => { hs.tx htx with seq := Nat.lt_of_le_of_ne hlt hnot }
        heldShow := hs.heldShow
        blocking := hs.blocking }
  case last htx _ =>
    have hc := (hs.tx htx).configured
    refine .of_idle rfl (fun _ => ⟨(hs.configured hc).passes, (hs.configured hc).xlen⟩) (fun _ => hc) ?_
    rw [State.frameEnd_held]
    split
    · simp
    · assumption
  case gap => exact hs.of_same (by constructor <;> rfl) hs.heldShow Iff.rfl
  case none => exact hs

theorem TurnEffect.controlOk {s t : State} (h : TurnEffect s t) (hs : s.ControlOk) : t.ControlOk := by
  cases h
  case host h => exact h.controlOk hs
  case encoder h => exact h.controlOk hs
  case reset => exact .of_idle rfl (by simp) (by simp) (by simp)

/-! ### The invariant and a step -/

theorem TurnEffect.inv {s t : State} (h : TurnEffect s t) (hs : s.Inv) : t.Inv := by
  obtain ⟨hstorage, hcontrol⟩ := State.inv_iff.1 hs
  exact State.inv_iff.2 ⟨h.storageOk hstorage, h.controlOk hcontrol⟩

/-- The invariant says nothing of whose turn it is. -/
theorem State.Inv.takeTurn {s : State} (h : s.Inv) : s.takeTurn.Inv := by
  obtain ⟨hs, hc⟩ := State.inv_iff.1 h
  refine State.inv_iff.2 ⟨?_, hc.of_same (by constructor <;> simp) (by simpa using hc.heldShow) (by simp)⟩
  constructor
  case memMapped => simpa [State.RamMapped] using hs.memMapped
  all_goals simp [hs.legal, hs.memWf, hs.err, hs.irqStat, hs.irqEn, hs.config, hs.npix, hs.paln]

/-- While a frame is in TX the encoder has a step. -/
theorem State.Inv.encoderEnabled_of_tx {s : State} (h : s.Inv) (htx : s.encState = .tx) : s.encoderEnabled = true := by
  obtain ⟨hconf, hconfig, -, -, hlt, -⟩ := h.tx htx
  have hstrat := (h.configured hconf).isGpio_eq
  rw [← hconfig] at hstrat
  cases hspi : isSpi s.snap.config with
  | true =>
    rw [State.seqEnd_of_spi hspi] at hlt
    simp [State.encoderEnabled, State.spiStepEnabled, htx, hspi, hlt]
  | false =>
    have hgpio : isGpio s.snap.config = true := by rw [hstrat, hspi]; rfl
    rw [State.seqEnd_of_gpio hgpio] at hlt
    simp [State.encoderEnabled, State.gpioStepEnabled, htx, hgpio, hlt]

/-- Where the encoder has no step every held write's condition holds (R295). -/
theorem State.Inv.not_stuck {s : State} (h : s.Inv) : s.stuck = false := by
  by_cases henc : s.encoderEnabled = true
  · simp [State.stuck, henc]
  have hidle : s.encState = .idle := by
    cases he : s.encState with
    | idle => rfl
    | tx => exact absurd (h.encoderEnabled_of_tx he) henc
  have hgap : s.gapOk = true := by
    by_contra hg
    exact henc (State.encoderStep_of_gap hidle (by simpa using hg)).1
  cases hh : s.held with
  | empty => exact State.stuck_of_empty hh
  | waitingShow => simp [State.stuck, State.hostEnabled, State.showReady, hh, hidle, hgap]
  | waitingCfg => simp [State.stuck, State.hostEnabled, State.cfgReady, hh, hidle]
  | blockingShow =>
    obtain ⟨htx, -⟩ := h.blocking.1 hh
    rw [hidle] at htx
    cases htx

end Sys2Proof.Machine

namespace Sys2Proof.Spec
open Sys2Proof.Machine

/-- Settles O49: the codes one by one; a first error's ERR as the sum of its fields (`errSet_toNat`), a later one's by
`errRecord_later`. -/
theorem firstErrorSticksLaterOnesSetMulti : Obligations.FirstErrorSticksLaterOnesSetMulti := by
  refine ⟨by decide, fun s e opc acc => ⟨rfl, fun hfirst => ?_, fun hlater => errRecord_later ?_ e opc acc⟩⟩
  · have hcode : errCode s.err = 0#8 := by
      rw [← BitVec.toNat_inj, errCode_toNat]
      exact hfirst
    have hopc : (if acc then 0 else opc.toNat) = (if acc then 0#8 else opc).toNat := by
      cases acc <;> rfl
    have hcodeLt := e.code.isLt
    have hopcLt := (if acc then 0#8 else opc).isLt
    have haccLt := acc.toNat_lt
    rw [State.record_err, errRecord_first hcode, errSet_toNat, hopc]
    omega
  · rw [Ne, ← BitVec.toNat_inj, errCode_toNat]
    exact hlater

/-- Settles O54: a state with the invariant is never stuck (`State.Inv.not_stuck`), and by cases on what a step can do both parts
of the invariant are kept. -/
theorem everyStepKeepsTheInvariant : Obligations.EveryStepKeepsTheInvariant := by
  intro s h
  obtain ⟨t, ht⟩ := step_answers h.legal (.inl h.not_stuck)
  obtain ⟨-, he⟩ := step_effect ht
  exact ⟨t, ht, he.inv h.takeTurn⟩

end Sys2Proof.Spec
end

section
/-! Liveness and the end of a run (70_reset_and_hazards.md R339, R342): the encoder's steps until it has none, its waits for a turn,
and the work left in a run, which every step before the end makes less. -/

namespace Sys2Proof.Machine

/-! ### The encoder alone lifts a hold (R132, R133, R339) -/

/-- The encoder steps left until the encoder has none: the rest of the frame and a gap step, or the gap step alone. -/
def State.encoderWork (s : State) : Nat :=
  match s.encState with
  | .tx => s.seqEnd - s.seq + 1
  | .idle => if s.gapOk then 0 else 1

theorem State.encoderWork_of_tx {s : State} (h : s.encState = .tx) : s.encoderWork = s.seqEnd - s.seq + 1 := by
  rw [State.encoderWork, h]

theorem State.encoderWork_of_idle {s : State} (h : s.encState = .idle) : s.encoderWork = if s.gapOk then 0 else 1 := by
  rw [State.encoderWork, h]

theorem State.encoderWork_of_idle_le {s : State} (h : s.encState = .idle) : s.encoderWork ≤ 1 := by
  rw [State.encoderWork_of_idle h]
  split <;> decide

theorem State.encoderWork_le (s : State) : s.encoderWork ≤ s.seqEnd - s.seq + 1 := by
  cases h : s.encState with
  | tx => rw [State.encoderWork_of_tx h]
  | idle => exact (State.encoderWork_of_idle_le h).trans (Nat.le_add_left _ _)

/-- Each step that the encoder has is one less to take. -/
theorem EncoderEffect.encoderWork_lt {s t : State} (h : EncoderEffect s t) (henc : s.encoderEnabled = true) :
    t.encoderWork < s.encoderWork := by
  cases h with
  | bit htx hlt =>
    have hwork : State.encoderWork { s with wire := s.wire ++ s.currentWave, seq := s.seq + 1 } = s.seqEnd - (s.seq + 1) + 1 :=
      State.encoderWork_of_tx htx
    rw [hwork, State.encoderWork_of_tx htx]
    omega
  | last htx hlast =>
    have hle := State.encoderWork_of_idle_le (s := State.frameEnd { s with wire := s.wire ++ s.currentWave, seq := s.seq + 1 }) rfl
    rw [State.encoderWork_of_tx htx]
    omega
  | gap hi hg =>
    have hwork : s.gapStep.encoderWork = 0 := State.encoderWork_of_idle hi
    simp [hwork, State.encoderWork_of_idle hi, hg]
  | none h => simp [henc] at h

theorem State.Inv.encoderStep {s : State} (h : s.Inv) : s.encoderStep.Inv :=
  (TurnEffect.encoder (encoderStep_effect s)).inv h

/-- The encoder alone comes to a state in which it has no step. -/
theorem State.Inv.exists_encoderRun_done {s : State} (h : s.Inv) :
    ∃ n ≤ s.encoderWork, (s.encoderRun n).Inv ∧ (s.encoderRun n).encoderEnabled = false := by
  induction hk : s.encoderWork using Nat.strong_induction_on generalizing s with
  | _ k ih =>
    cases henc : s.encoderEnabled with
    | false => exact ⟨0, Nat.zero_le _, h, henc⟩
    | true =>
      have hlt := (encoderStep_effect s).encoderWork_lt henc
      obtain ⟨n, hn, hdone⟩ := ih _ (hk ▸ hlt) h.encoderStep rfl
      exact ⟨n + 1, by omega, hdone⟩

/-- Where the encoder has no step, what is held can go on: nothing is stuck. -/
theorem State.Inv.held_or_hostEnabled {s : State} (h : s.Inv) (henc : s.encoderEnabled = false) :
    s.held = .empty ∨ s.hostEnabled = true := by
  have hstuck := h.not_stuck
  by_contra hno
  rw [not_or, Bool.not_eq_true] at hno
  simp [State.stuck, hno, henc] at hstuck

/-! ### The encoder's wait for its turn (R81) -/

/-- The turns that can pass before the encoder's: the schedule's, and the host's steps while the patience lasts. -/
def State.encoderWait (s : State) : Nat := s.sched.length + (Config.patience s.picks - s.passed)

theorem State.takeTurn_encoderEnabled (s : State) : s.takeTurn.encoderEnabled = s.encoderEnabled := by
  simp [State.encoderEnabled, State.gpioStepEnabled, State.spiStepEnabled, State.gapStepEnabled]

theorem State.takeTurn_hostEnabled (s : State) : s.takeTurn.hostEnabled = s.hostEnabled := by
  simp [State.hostEnabled, State.takeTurn_showReady, State.cfgReady]

/-- Where the schedule has ended, the host's turn comes only if it has a step. -/
theorem State.hostEnabled_of_nextTurn {s : State} (hs : s.sched = []) (ht : s.nextTurn ≠ .encoder) : s.hostEnabled = true := by
  by_contra hh
  exact ht (State.nextTurn_of_encoder hs (by simpa using hh))

/-- Where the schedule has ended, no reset comes. -/
theorem State.nextTurn_ne_reset {s : State} (hs : s.sched = []) : s.nextTurn ≠ .reset := by
  simp only [State.nextTurn, hs]
  repeat' split
  all_goals simp

/-- A turn that passes the waiting encoder over shortens its wait. -/
theorem State.takeTurn_encoderWait_lt {s : State} (henc : s.encoderEnabled = true) (ht : s.nextTurn ≠ .encoder) :
    s.takeTurn.encoderWait < s.encoderWait := by
  cases hs : s.sched with
  | cons _ rest =>
    have hturn : s.takeTurn = { s with sched := rest } := by rw [State.takeTurn, hs]
    simp [hturn, State.encoderWait, hs]
  | nil =>
    have hboth : s.bothEnabled = true := by simp [State.bothEnabled, henc, State.hostEnabled_of_nextTurn hs ht]
    have hpatience : s.passed < Config.patience s.picks := by
      by_contra hp
      exact ht ((State.nextTurn_of_both hs hboth).trans (if_neg hp))
    rw [State.takeTurn_of_patience hs hboth hpatience]
    show s.sched.length + (Config.patience s.picks - (s.passed + 1)) < s.sched.length + (Config.patience s.picks - s.passed)
    omega

theorem SameTurns.encoderWait {s t : State} (h : SameTurns s t) : t.encoderWait = s.encoderWait := by
  obtain ⟨hsched, hpassed, hpicks⟩ := h
  rw [State.encoderWait, hsched, hpassed, hpicks, State.encoderWait]

/-! ### The host's work (R132) -/

/-- A write that waits to be accepted is still to do; one that has been accepted, or none, is not. -/
def Held.waits : Held → Nat
  | .waitingShow => 1
  | .waitingCfg => 1
  | .empty => 0
  | .blockingShow => 0

/-- The steps the host has still to make, rounds of a WAITIDLE that find BUSY = 1 aside: an access may take two, its first
presentation and its acceptance. -/
def State.hostWork (s : State) : Nat := 2 * s.prog.length + s.held.waits

theorem Held.waits_le (h : Held) : h.waits ≤ 1 := by cases h <;> decide

theorem State.takeTurn_hostWork (s : State) : s.takeTurn.hostWork = s.hostWork := by simp [State.hostWork]

theorem State.takeTurn_encoderWork (s : State) : s.takeTurn.encoderWork = s.encoderWork := by
  simp [State.encoderWork, State.seqEnd]

/-- The encoder does none of the host's work: the end of a blocking frame completes a write that was accepted before. -/
theorem EncoderEffect.hostWork {s t : State} (h : EncoderEffect s t) : t.hostWork = s.hostWork := by
  cases h with
  | last =>
    simp only [State.hostWork, State.frameEnd_prog, State.frameEnd_held]
    split
    · next hh => rw [hh]; rfl
    · rfl
  | _ => rfl

theorem AccessEffect.prog {s t : State} (h : AccessEffect s t) : t.prog = s.prog := by
  cases h
  case command h => exact h.sameHostRegisters.prog
  all_goals rfl

/-- A SHOW that is ready does not wait. -/
theorem acceptShow_waits (s : State) : s.acceptShow.held.waits = 0 := by
  rw [State.acceptShow_held]
  split <;> rfl

/-- A CFG that is ready does not wait. -/
theorem exec_cfg_held {s t : State} (hr : s.cfgReady = true) (h : exec .cfg s = .next t) : t.held = s.held := by
  cases hc : cfgCheck s.params s.arg0 s.arg1 with
  | some e => rw [exec_cfg_of_error hr hc] at h; cases h; rfl
  | none => rw [exec_cfg_of_pass hr hc] at h; cases h; rfl

/-- What a host step does to its work: it is made less, or BUSY was 1 and a round of WAITIDLE has done nothing but read STATUS. -/
theorem hostMove_work {s t : State} (hinv : s.Inv) (hh : s.hostEnabled = true) (h : hostMove s = .next t) :
    t.hostWork < s.hostWork ∨ (s.busy = true ∧ t = s.observe s.status) := by
  cases hheld : s.held with
  | empty =>
    cases hprog : s.prog with
    | nil => simp [State.hostEnabled, hheld, hprog] at hh
    | cons op rest =>
      cases op with
      | access a =>
        obtain ⟨u, hu, he⟩ := hostAccess_effect a { s with prog := rest }
        rw [hostMove_of_access hheld hprog, hu] at h
        cases h
        have hwaits := t.held.waits_le
        refine .inl ?_
        have hrest : t.prog = rest := he.prog
        rw [State.hostWork, hrest, State.hostWork, hprog, List.length_cons]
        omega
      | waitIdle =>
        rw [hostMove_of_waitIdle hheld hprog, pollStatus_eq, State.status_bit_zero] at h
        cases h
        cases hb : s.busy with
        | true => exact .inr ⟨rfl, rfl⟩
        | false => exact .inl (by simp [State.hostWork, hprog])
  | waitingShow =>
    have hc := hinv.heldShow hheld
    have hr : s.showReady = true := by simpa [State.hostEnabled, hheld, hc] using hh
    have hr' : State.showReady { s with held := .empty } = true := hr
    rw [hostMove_of_waitingShow hheld, exec_show_of_configured (s := { s with held := .empty }) hc, if_pos hr'] at h
    cases h
    left
    rw [State.hostWork, acceptShow_waits, State.hostWork, hheld]
    exact Nat.lt_succ_self _
  | waitingCfg =>
    have hr : s.cfgReady = true := by simpa [State.hostEnabled, hheld] using hh
    rw [hostMove_of_waitingCfg hheld] at h
    have hdone : t.held = .empty := exec_cfg_held (s := { s with held := .empty }) hr h
    have hprog : t.prog = s.prog := (commandEffect_of_exec h).sameHostRegisters.prog
    left
    rw [State.hostWork, hdone, hprog, State.hostWork, hheld]
    exact Nat.lt_succ_self _
  | blockingShow => simp [State.hostEnabled, hheld] at hh

/-- While BUSY is 1 the encoder has a step (10_state.md R24). -/
theorem State.Inv.encoderEnabled_of_busy {s : State} (h : s.Inv) (hb : s.busy = true) : s.encoderEnabled = true := by
  cases he : s.encState with
  | tx => exact h.encoderEnabled_of_tx he
  | idle =>
    obtain ⟨-, hgap⟩ : (s.cfgst = .configured ∧ isGpio s.config = true) ∧ s.gapOk = false := by simpa [State.busy, he] using hb
    exact (State.encoderStep_of_gap he hgap).1

/-! ### The work left in a run (R342) -/

/-- The work left: the scheduled turns, then what the host has to do, then what the encoder has to do, then how long it waits. -/
def State.work (s : State) : Nat ×ₗ Nat ×ₗ Nat ×ₗ Nat :=
  toLex (s.sched.length, toLex (s.hostWork, toLex (s.encoderWork, s.encoderWait)))

theorem State.work_lt_iff {s t : State} : t.work < s.work ↔ t.sched.length < s.sched.length ∨ t.sched.length = s.sched.length ∧
    (t.hostWork < s.hostWork ∨ t.hostWork = s.hostWork ∧
      (t.encoderWork < s.encoderWork ∨ t.encoderWork = s.encoderWork ∧ t.encoderWait < s.encoderWait)) := by
  simp [State.work, Prod.Lex.toLex_lt_toLex]

/-- With no turn scheduled, neither agent has a step only at the end of a run. -/
theorem State.Inv.quiescent {s : State} (h : s.Inv) (hs : s.sched = []) (hh : s.hostEnabled = false)
    (henc : s.encoderEnabled = false) : s.Quiescent := by
  have hheld : s.held = .empty := (h.held_or_hostEnabled henc).resolve_right (by simp [hh])
  have hidle : s.encState = .idle := by
    cases he : s.encState with
    | idle => rfl
    | tx => simp [h.encoderEnabled_of_tx he] at henc
  refine ⟨by simpa [State.hostEnabled, hheld] using hh, hs, hheld, hidle, ?_⟩
  by_contra hg
  simp [State.encoderStep_of_gap hidle (by simpa using hg)] at henc

/-- Every step before the end of a run makes the work left less: a scheduled turn, by the schedule; then the encoder's, by its own
work; then the host's, by its own, or in a loop that finds BUSY = 1 by the encoder's wait. -/
theorem step_work_lt {s t : State} (hinv : s.Inv) (hq : ¬ s.Quiescent) (h : step s = .next t) : t.work < s.work := by
  obtain ⟨hsched, -, -⟩ := step_sameTurns h
  rw [State.takeTurn_sched] at hsched
  rw [State.work_lt_iff]
  cases hs : s.sched with
  | cons => exact .inl (by simp [hsched, hs])
  | nil =>
    refine .inr ⟨by rw [hsched, hs]; rfl, ?_⟩
    cases ht : s.nextTurn with
    | reset => exact absurd ht (State.nextTurn_ne_reset hs)
    | encoder =>
      have henc : s.encoderEnabled = true := by
        by_contra henc
        rw [Bool.not_eq_true] at henc
        cases hh : s.hostEnabled with
        | true => simp [State.nextTurn_of_host hs hh henc] at ht
        | false => exact hq (hinv.quiescent hs hh henc)
      rw [step_encoder hinv.legal ht hinv.not_stuck] at h
      cases h
      have he := encoderStep_effect s.takeTurn
      refine .inr ⟨he.hostWork.trans s.takeTurn_hostWork, .inl ?_⟩
      rw [← s.takeTurn_encoderWork]
      exact he.encoderWork_lt (s.takeTurn_encoderEnabled.trans henc)
    | host =>
      have hh : s.takeTurn.hostEnabled = true :=
        s.takeTurn_hostEnabled.trans (State.hostEnabled_of_nextTurn hs (by simp [ht]))
      rw [step_host hinv.legal ht hinv.not_stuck] at h
      rcases hostMove_work hinv.takeTurn hh h with hlt | ⟨hb, rfl⟩
      · exact .inl (s.takeTurn_hostWork ▸ hlt)
      · have henc : s.encoderEnabled = true :=
          s.takeTurn_encoderEnabled.symm.trans (hinv.takeTurn.encoderEnabled_of_busy hb)
        have hwait := State.takeTurn_encoderWait_lt henc (by simp [ht])
        exact .inr ⟨s.takeTurn_hostWork, .inr ⟨s.takeTurn_encoderWork, hwait⟩⟩

/-! ### Runs -/

/-- A well-founded measure that falls while `P` does not hold comes, from any moment on, to one at which it does. -/
theorem exists_ge_of_measure_lt {α : Type} [Preorder α] [WellFoundedLT α] {x : Nat → α} {P : Nat → Prop}
    (hx : ∀ n, ¬ P n → x (n + 1) < x n) (n : Nat) : ∃ m, n ≤ m ∧ P m := by
  by_contra hno
  push Not at hno
  exact not_strictAnti_of_wellFoundedLT (fun k => x (n + k))
    (strictAnti_nat_of_succ_lt fun k => hx (n + k) (hno (n + k) (Nat.le_add_right n k)))

theorem IsRun.inv {r : Nat → State} (hr : IsRun r) (h0 : (r 0).Inv) (n : Nat) : (r n).Inv := by
  induction n with
  | zero => exact h0
  | succ n ih =>
    obtain ⟨-, he⟩ := step_effect (hr n)
    exact he.inv ih.takeTurn

/-- Every run is weakly fair to the encoder: what passes it over shortens its wait. -/
theorem IsRun.fairToEncoder {r : Nat → State} (hr : IsRun r) : FairToEncoder r :=
  exists_ge_of_measure_lt (x := fun n => (r n).encoderWait) fun n hn => by
    rw [not_or, Bool.not_eq_false] at hn
    obtain ⟨henc, ht⟩ := hn
    exact (step_sameTurns (hr n)).encoderWait ▸ State.takeTurn_encoderWait_lt henc ht

end Sys2Proof.Machine

namespace Sys2Proof.Spec
open Sys2Proof.Machine

/-- Settles O57: a hold is lifted where the encoder has no step left (`State.Inv.exists_encoderRun_done`); a run is fair because
the encoder's wait falls, and ends because the work left falls (`step_work_lt`). -/
theorem encoderLiftsEveryHold : Obligations.EncoderLiftsEveryHold := by
  refine ⟨fun s hinv _ => ?_, fun _ hr => hr.fairToEncoder, fun r hr h0 => ?_⟩
  · obtain ⟨n, hn, hinv', henc⟩ := hinv.exists_encoderRun_done
    exact ⟨n, hn.trans s.encoderWork_le, hinv'.held_or_hostEnabled henc⟩
  · exact exists_ge_of_measure_lt (x := fun n => (r n).work) fun n hq => step_work_lt (hr.inv h0 n) hq (hr n)

/-- Settles O59: with no turn left and nothing for the host to do the step is the encoder's, which has none. -/
theorem nothingMovesAtTheEndOfARun : Obligations.NothingMovesAtTheEndOfARun := by
  intro s hl hq
  obtain ⟨hprog, hs, hheld, hidle, hgap⟩ := hq
  have hh : s.hostEnabled = false := by simp [State.hostEnabled, hheld, hprog]
  rw [step_encoder_alone hl hs hh (State.stuck_of_empty hheld), (State.encoderStep_of_gapOk hidle hgap).2]

end Sys2Proof.Spec
end

section
/-! Reset (70_reset_and_hazards.md R320 to R325): the registers and the internal state after a reset, the bit that it cuts short, and
the invariants right after it. -/

namespace Sys2Proof.Machine

/-- A reset step answers the reset of the state whose turn is used up (R320). -/
theorem eq_applyReset_of_step {s t : State} (hl : s.params.legal = true) (ht : s.nextTurn = .reset) (h : step s = .next t) :
    t = s.takeTurn.applyReset :=
  Host.Outcome.next.inj (h.symm.trans (step_reset hl ht))

/-! ### The registers after a reset (R321) -/

/-- The registers that read 0 after a reset. -/
def zeroRegs : List Reg :=
  [.status, .err, .cmd, .arg0, .arg1, .arg2, .res, .config, .npix, .paln, .irqStat, .irqEn, .frames]

theorem State.applyReset_readReg (s : State) : ∀ r ∈ zeroRegs, s.applyReset.readReg r = 0#32 := by
  have hstatus : s.applyReset.status = 0#32 := (by decide : State.reset.status = 0#32)
  simp [zeroRegs, State.readReg, hstatus]

theorem Params.pixelCap_le {p : Params} (h : p.legal = true) : p.pixelCap ≤ 1048576 := by
  simp only [Params.legal, Params.pixelCapOk, Bool.and_eq_true, decide_eq_true_eq] at h
  omega

theorem Params.palCap_le {p : Params} (h : p.legal = true) : p.palCap ≤ 256 := by
  simp only [Params.legal, Params.palCapOk, Bool.and_eq_true, decide_eq_true_eq] at h
  omega

/-- In an admitted build CAP_PIX holds its parameter whole (00_scope.md R7). -/
theorem capPixWord_toNat {p : Params} (h : p.legal = true) : (capPixWord p).toNat = p.pixelCap := by
  have hle := Params.pixelCap_le h
  rw [capPixWord, BitVec.toNat_ofNat]
  omega

/-- In an admitted build CAP_MISC holds PAL_CAP whole (00_scope.md R7). -/
theorem capMiscWord_toNat {p : Params} (h : p.legal = true) :
    (capMiscWord p).toNat = p.palCap + p.hasGpio.toNat * 65536 + p.hasSpi.toNat * 131072 := by
  have hle := Params.palCap_le h
  have hgpio := p.hasGpio.toNat_le
  have hspi := p.hasSpi.toNat_le
  rw [capMiscWord_eq, BitVec.toNat_ofNat]
  omega

/-! ### The wire at a reset (R324) -/

theorem State.applyReset_ramByte (s : State) (a : Nat) : s.applyReset.ramByte a = Config.ramDraw s.applyReset.ramEpoch a := rfl

theorem State.resetWave_of_idle {s : State} (h : s.encState = .idle) : s.resetWave = [] :=
  if_neg (by simp [State.gpioStepEnabled, State.spiStepEnabled, h])

/-- In TX a reset leaves the bit in progress up to a drawn point of it, and a low segment. -/
theorem State.resetWave_of_tx {s : State} (henc : s.encoderEnabled = true) (htx : s.encState = .tx) :
    ∃ c low, c ≤ totalTicks s.currentWave ∧ s.resetWave = cutSegments s.currentWave c ++ [⟨.idle, false, low⟩] := by
  have hbit : (s.gpioStepEnabled || s.spiStepEnabled) = true := by
    simpa [State.encoderEnabled, State.gapStepEnabled, htx] using henc
  exact ⟨Config.draw s.draws % (totalTicks s.currentWave + 1), Config.draw (s.draws + 1),
    Nat.le_of_lt_succ (Nat.mod_lt _ (Nat.succ_pos _)), if_pos hbit⟩

/-- A cut inside a single segment shortens it. -/
theorem cutSegments_single {g : Segment} {c : Nat} (h : c ≤ totalTicks [g]) :
    c ≤ g.ticks ∧ cutSegments [g] c = [{ g with driver := g.driver.cutShort, ticks := c }] := by
  have hc : c ≤ g.ticks := by simpa [totalTicks] using h
  exact ⟨hc, if_pos hc⟩

/-- A cut inside two segments falls in the first or leaves it whole and falls in the second. -/
theorem cutSegments_pair {g g' : Segment} {c : Nat} (h : c ≤ totalTicks [g, g']) :
    (c ≤ g.ticks ∧ cutSegments [g, g'] c = [{ g with driver := g.driver.cutShort, ticks := c }]) ∨
      (c - g.ticks ≤ g'.ticks ∧
        cutSegments [g, g'] c = [g, { g' with driver := g'.driver.cutShort, ticks := c - g.ticks }]) := by
  by_cases hc : c ≤ g.ticks
  · exact .inl ⟨hc, if_pos hc⟩
  · have hsum : totalTicks [g, g'] = g.ticks + totalTicks [g'] := by simp [totalTicks]
    obtain ⟨hle, hcut⟩ := cutSegments_single (g := g') (c := c - g.ticks) (by omega)
    exact .inr ⟨hle, by rw [cutSegments, if_neg hc, hcut]⟩

theorem gpioWave_eq (t : Timing) (b : Bool) :
    Spec.gpioWave t b = [⟨.gpio, true, highTicks t b⟩, ⟨.gpio, false, t.tbit - highTicks t b⟩] :=
  (gpioBitWave_eq t b).symm

/-! ### The invariants right after a reset -/

theorem State.reset_storageOk : State.reset.StorageOk where
  legal := by decide
  memWf := State.reset_memWf
  memMapped := fun _ hc => absurd hc List.not_mem_nil
  err := errOk_zero
  irqStat := by decide
  irqEn := by decide
  config := by decide
  npix := by decide
  paln := by decide

theorem State.reset_controlOk : State.reset.ControlOk := .of_idle rfl (by simp) (by simp) (by simp)

end Sys2Proof.Machine

namespace Sys2Proof.Spec
open Sys2Proof.Machine

/-- Settles O51: the registers that store something are those of `State.reset`, and the CAP registers hold their parameters
whole in an admitted build. -/
theorem resetRegisterValues : Obligations.ResetRegisterValues := by
  intro s t hl ht h
  obtain rfl := eq_applyReset_of_step hl ht h
  have hp : s.takeTurn.applyReset.params = s.params := s.takeTurn_params
  refine ⟨rfl, State.applyReset_readReg _, ?_, ?_, ?_, ?_⟩
  · rw [State.readReg, hp, capPixWord_toNat hl]
  · rw [State.readReg, hp, capMiscWord_toNat hl]
  · rw [State.readReg, hp, capXbufWord]
  · exact (by decide : State.reset.irq = false)

/-- Settles O52: the fields are those of `State.applyReset`; in TX the wire is the bit in progress, cut in its one segment or in one
of its two (`State.resetWave_of_tx`). -/
theorem resetAbortsFrameAndHold : Obligations.ResetAbortsFrameAndHold := by
  intro s hl ht
  have hwire : s.takeTurn.applyReset.wire = s.wire ++ s.takeTurn.resetWave := by rw [State.applyReset_wire, s.takeTurn_wire]
  refine ⟨_, step_reset hl ht, rfl, rfl, rfl, rfl, rfl, rfl, s.takeTurn_params, s.takeTurn_prog, s.takeTurn_reads,
    State.applyReset_ramByte _, s.takeTurn_draws.ge, Nat.lt_add_of_pos_right Nat.two_pos, fun hi => ?_,
    fun henc htx hg => ?_, fun henc htx hs => ?_⟩
  · rw [hwire, State.resetWave_of_idle (by simpa using hi), List.append_nil]
  · obtain ⟨c, low, hc, hwave⟩ := State.resetWave_of_tx (s.takeTurn_encoderEnabled.trans henc) (s.takeTurn_encState.trans htx)
    rw [State.currentWave_of_gpio (by simpa using hg), gpioWave_eq] at hc hwave
    simp only [State.takeTurn_snap, State.takeTurn_params, State.takeTurn_seq] at hc hwave
    rw [hwire, hwave, gpioWave_eq]
    rcases cutSegments_pair hc with ⟨hle, hcut⟩ | ⟨hle, hcut⟩
    · exact ⟨c, low, _, rfl, .inl ⟨hle, by rw [hcut]; rfl⟩⟩
    · exact ⟨_, low, _, rfl, .inr ⟨hle, by rw [hcut]; rfl⟩⟩
  · obtain ⟨c, low, hc, hwave⟩ := State.resetWave_of_tx (s.takeTurn_encoderEnabled.trans henc) (s.takeTurn_encState.trans htx)
    rw [State.currentWave_of_spi (by simpa using hs)] at hc hwave
    obtain ⟨hle, hcut⟩ := cutSegments_single hc
    simp only [State.takeTurn_snap, State.takeTurn_params, State.takeTurn_seq, State.takeTurn_xbuf] at hle hcut hwave
    exact ⟨c, low, hle, by rw [hwire, hwave, hcut]; rfl⟩

/-- Settles O53: outside TX with nothing configured the invariant asks little, and with GAP_OK = 0 the gap invariant nothing. -/
theorem resetMeetsTheInvariants : Obligations.ResetMeetsTheInvariants :=
  ⟨State.inv_iff.2 ⟨State.reset_storageOk, State.reset_controlOk⟩, ⟨fun _ hgap => Bool.noConfusion hgap, EncState.noConfusion⟩⟩

end Sys2Proof.Spec
end
